-- ==== Sys2Proof/Config.lean ====
section
/-!
DEFINITION. The parameters of the machine (00_scope.md R4) and the free values: everything the host does in
a turn for which its script says nothing.

Each number of R4 is named here once, and the types and the step are written with these names. The
parameters of R4 that are tables stand in files of their own: the font bytes in Machine/Font.lean, the
opcode numbers in Decode.lean. Those that are policies are the operations that follow them: the random
source is `freeRandom`, the timer cadence `State.tick`, the out-of-range policy the faults.
-/

namespace Sys2Proof.Config

/-- `NREG`: the general registers (R4, R10). -/
@[simp] abbrev numRegs : Nat := 16

/-- `XLEN`: the width of a general register (R4, R10), and so of a byte of memory (R30). -/
@[simp] abbrev regWidth : Nat := 8

/-- `TIMER_WIDTH`: the width of each timer (R4, R15). -/
@[simp] abbrev timerWidth : Nat := 8

/-- `I_WIDTH`: the width of the index register (R4, R12). -/
@[simp] abbrev indexWidth : Nat := 16

/-- `PC_WIDTH`: the width of the program counter (R4, R13). -/
@[simp] abbrev pcWidth : Nat := 16

/-- `ILEN`: the length of every instruction, in bits (R4, R45). -/
@[simp] abbrev instrWidth : Nat := 16

/-- `ILEN` in bytes: what the fetch reads (R45). -/
@[simp] abbrev instrBytes : Nat := instrWidth / regWidth

/-- By how much the fetch, and a taken skip, advance `pc`: one instruction (R62, R83). -/
@[simp] abbrev pcStep : BitVec (delta% pcWidth) := BitVec.ofNat _ instrBytes

/-- `MEM_SIZE`: bytes of memory, addresses 0x000 to 0xFFF (R4, R30). -/
@[simp] abbrev memSize : Nat := 4096

/-- The highest address an instruction is fetched from: its last byte is the last of memory (R33). -/
@[simp] abbrev lastFetch : Nat := memSize - instrBytes

/-- `PROG_START`: the program load address and the reset value of `pc` (R4, R24, R136). -/
@[simp] abbrev progStart : Nat := 0x200

/-- `FONT_START`: the address of the font table (R4, R26). -/
@[simp] abbrev fontStart : Nat := 0x050

/-- `FONT_BYTES`: the size of the font table (R4, R26). -/
@[simp] abbrev fontBytes : Nat := 80

/-- The bytes of one glyph (R26, R102). -/
@[simp] abbrev glyphBytes : Nat := 5

/-- `STACK_DEPTH`: the entries of the return stack (R4, R14). -/
@[simp] abbrev stackDepth : Nat := 16

/-- The width of a stack entry (R4, R14). -/
@[simp] abbrev stackWidth : Nat := 16

/-- `SP`: how many values the stack pointer has, the integers 0 to 16 (R4, R14, D16). -/
@[simp] abbrev spSize : Nat := 17

/-- `NKEYS`: the keys of the keypad (R4, R16). -/
@[simp] abbrev numKeys : Nat := 16

/-- `FB_W`: the columns of the framebuffer (R4, R17). -/
@[simp] abbrev fbWidth : Nat := 64

/-- `FB_H`: the rows of the framebuffer (R4, R17). -/
@[simp] abbrev fbHeight : Nat := 32

/-- The columns of a sprite: one for each bit of a byte (R72). -/
@[simp] abbrev spriteWidth : Nat := 8

/-- The sprite bit order (R4, R72, D10; log entry 3: UNVERIFIED): the bit of a sprite byte that stands in
column `c`, bit 7 being the leftmost. -/
@[simp] abbrev spriteColumnBit (c : Nat) : Nat := spriteWidth - 1 - c

/-- `ROM_MAX`: the largest program image that is loaded (R4, R44). -/
@[simp] abbrev romMax : Nat := 3584

/-- FREE VALUE (R16, R139: the keypad is arbitrary at every cycle; log entry 6): the keypad snapshot
of the host's turn with this number, where the host's script says nothing. No body: no proof can
see what it is. -/
opaque freeKeypad : Nat → BitVec (delta% numKeys)

/-- FREE VALUE (R21, R96: any byte, under no law; U8; log entry 6): the random byte of the host's
turn with this number, where the host's script says nothing. No body. -/
opaque freeRandom : Nat → BitVec (delta% regWidth)

/-- FREE VALUE (R139 (d): the host may write `dt` between any two cycles; log entry 6): whether it does in
the turn with this number, where its script says nothing, and what it writes. No body. -/
opaque freeDelay : Nat → Option (BitVec (delta% timerWidth))

/-- FREE VALUE (R139 (d); log entry 6): the same for `st`. No body. -/
opaque freeSound : Nat → Option (BitVec (delta% timerWidth))

/-- FREE VALUE (R139 (g), R135: the host may reset at any time between cycles; log entry 6): whether it
resets in the turn with this number, where its script says nothing, and the image it then loads. No
body. -/
opaque freeBoot : Nat → Option (List (BitVec (delta% regWidth)))

end Sys2Proof.Config
end

