-- ==== Sys2Proof/Word.lean ====
section
/-!
DEFINITION. The word types of the machine: registers, addresses, immediates (00_scope.md R5, R9).
Every value is unsigned (R5). A size is written `delta%` of its name in Config.lean: the number the name
stands for, so that the type of a value shows its width to every tactic.
-/

namespace Sys2Proof

/-- An 8-bit value: a general register, a byte of memory, the immediate `KK`. -/
abbrev Byte := BitVec (delta% Config.regWidth)

/-- A 16-bit value: an instruction word; `I`, `pc` and the stack entries have the same width. -/
abbrev Word := BitVec (delta% Config.instrWidth)

/-- The 12-bit address field `NNN` (R9). -/
abbrev Addr := BitVec 12

/-- A 4-bit field: the row count `N` (R9). -/
abbrev Nibble := BitVec 4

/-- The number of a general register, used directly as an index into `x` (R46). -/
abbrev Reg := Fin (delta% Config.numRegs)

/-- `VF`, the flag: general register 15 (R11). -/
abbrev VF : Reg := 15

/-- `V0`, the offset register of `jump-offset` (R82). -/
abbrev V0 : Reg := 0

end Sys2Proof
end

