-- ==== Sys2Proof/Syntax.lean ====
section
/-!
DEFINITION. The instructions: one constructor per row of spec/opcode_table.json, in the table's order
(30_encoding.md R59), with the operands the row's fields give. Bits that the decoder ignores (R55) are
no part of an instruction; the catch-all row keeps its whole word.
-/

namespace Sys2Proof

/-- The 34 operations of the base CHIP-8 set and the no-op of every other word (R1, R54, R59). -/
inductive Instr where
  /-- `clear-screen` (R70). -/
  | clearScreen
  /-- `return` (R75). -/
  | ret
  /-- `jump NNN` (R76). -/
  | jump (nnn : Addr)
  /-- `call NNN` (R77). -/
  | call (nnn : Addr)
  /-- `skip-eq-imm X,KK` (R78). -/
  | skipEqImm (x : Reg) (kk : Byte)
  /-- `skip-neq-imm X,KK` (R79). -/
  | skipNeqImm (x : Reg) (kk : Byte)
  /-- `skip-eq-reg X,Y` (R80). -/
  | skipEqReg (x y : Reg)
  /-- `load-imm X,KK` (R85). -/
  | loadImm (x : Reg) (kk : Byte)
  /-- `add-imm X,KK` (R86). -/
  | addImm (x : Reg) (kk : Byte)
  /-- `load-reg X,Y` (R87). -/
  | loadReg (x y : Reg)
  /-- `or X,Y` (R88). -/
  | orReg (x y : Reg)
  /-- `and X,Y` (R89). -/
  | andReg (x y : Reg)
  /-- `xor X,Y` (R90). -/
  | xorReg (x y : Reg)
  /-- `add-reg X,Y` (R91). -/
  | addReg (x y : Reg)
  /-- `sub X,Y` (R92). -/
  | sub (x y : Reg)
  /-- `shr X` (R93). -/
  | shr (x : Reg)
  /-- `subn X,Y` (R94). -/
  | subn (x y : Reg)
  /-- `shl X` (R95). -/
  | shl (x : Reg)
  /-- `skip-neq-reg X,Y` (R81). -/
  | skipNeqReg (x y : Reg)
  /-- `load-index NNN` (R100). -/
  | loadIndex (nnn : Addr)
  /-- `jump-offset NNN` (R82). -/
  | jumpOffset (nnn : Addr)
  /-- `rand X,KK` (R96). -/
  | rand (x : Reg) (kk : Byte)
  /-- `draw X,Y,N` (R71). -/
  | draw (x y : Reg) (n : Nibble)
  /-- `skip-notkey X` (R111). -/
  | skipNotKey (x : Reg)
  /-- `skip-key X` (R110). -/
  | skipKey (x : Reg)
  /-- `read-delay X` (R112). -/
  | readDelay (x : Reg)
  /-- `wait-key X` (R113). -/
  | waitKey (x : Reg)
  /-- `set-delay X` (R114). -/
  | setDelay (x : Reg)
  /-- `set-sound X` (R115). -/
  | setSound (x : Reg)
  /-- `add-index X` (R101). -/
  | addIndex (x : Reg)
  /-- `font-char X` (R102). -/
  | fontChar (x : Reg)
  /-- `bcd X` (R103). -/
  | bcd (x : Reg)
  /-- `store-regs X` (R104). -/
  | storeRegs (x : Reg)
  /-- `load-regs X` (R105). -/
  | loadRegs (x : Reg)
  /-- `nop-unmapped` (R65): the word, which matches none of the 34 rows (see WellFormed.lean). -/
  | nopUnmapped (w : Word)
  deriving DecidableEq, Repr

end Sys2Proof
end

