-- ==== Sys2Proof/WellFormed.lean ====
section
/-!
DEFINITION. Which instructions are well formed. Every operand's type has exactly the values its field
admits, so the one check is that the word of a `nop-unmapped` is an unmapped word (30_encoding.md R54).
-/

namespace Sys2Proof

/-- The unmapped words, group by group as R54 lists them (written from R54, not from the decoder). -/
def unmappedWord (w : Word) : Bool :=
  let op := w.toNat / 0x1000
  let n := w.toNat % 0x10
  let kk := w.toNat % 0x100
  (op = 0x0 && !([0x0, 0xE].contains n)) ||
  (op = 0x8 && [0x8, 0x9, 0xA, 0xB, 0xC, 0xD, 0xF].contains n) ||
  (op = 0xE && !([0x1, 0xE].contains n)) ||
  (op = 0xF && !([0x07, 0x0A, 0x15, 0x18, 0x1E, 0x29, 0x33, 0x55, 0x65].contains kk))

/-- An instruction is well formed: it is what some word decodes to (R48, R54). -/
def Instr.wellFormed : Instr → Bool
  | .clearScreen => true
  | .ret => true
  | .jump _ => true
  | .call _ => true
  | .skipEqImm _ _ => true
  | .skipNeqImm _ _ => true
  | .skipEqReg _ _ => true
  | .loadImm _ _ => true
  | .addImm _ _ => true
  | .loadReg _ _ => true
  | .orReg _ _ => true
  | .andReg _ _ => true
  | .xorReg _ _ => true
  | .addReg _ _ => true
  | .sub _ _ => true
  | .shr _ => true
  | .subn _ _ => true
  | .shl _ => true
  | .skipNeqReg _ _ => true
  | .loadIndex _ => true
  | .jumpOffset _ => true
  | .rand _ _ => true
  | .draw _ _ _ => true
  | .skipNotKey _ => true
  | .skipKey _ => true
  | .readDelay _ => true
  | .waitKey _ => true
  | .setDelay _ => true
  | .setSound _ => true
  | .addIndex _ => true
  | .fontChar _ => true
  | .bcd _ => true
  | .storeRegs _ => true
  | .loadRegs _ => true
  | .nopUnmapped w => unmappedWord w

end Sys2Proof
end

