-- ==== Sys2Proof/Decode.lean ====
section
/-!
DEFINITION. The decoder (30_encoding.md R45 to R59), the opcode map of R59 as a table, and the encoder,
written from the same rules. The selector numbers of group 0x8, group 0xF and the twelve one-to-one
nibbles are the spec's own, from general knowledge (R50, R52, R53; log entry 1: UNVERIFIED).
-/

namespace Sys2Proof

/-! ### Fields of the instruction word (R9, R46) -/

/-- `OP = w[15:12]`. -/
def fieldOP (w : Word) : Nibble := w.extractLsb' 12 4

/-- `X = w[11:8]`. -/
def fieldX (w : Word) : Reg := (w.extractLsb' 8 4).toFin

/-- `Y = w[7:4]`. -/
def fieldY (w : Word) : Reg := (w.extractLsb' 4 4).toFin

/-- `N = w[3:0]`. -/
def fieldN (w : Word) : Nibble := w.extractLsb' 0 4

/-- `KK = w[7:0]`. -/
def fieldKK (w : Word) : Byte := w.extractLsb' 0 8

/-- `NNN = w[11:0]`. -/
def fieldNNN (w : Word) : Addr := w.extractLsb' 0 12

/-! ### The two-level dispatch (R48) -/

/-- Group 0x0, keyed by the low nibble (R49). -/
def decodeGroup0 (w : Word) : Instr :=
  match (fieldN w).toNat with
  | 0x0 => .clearScreen
  | 0xE => .ret
  | _ => .nopUnmapped w

/-- Group 0x8, keyed by the low nibble (R50). -/
def decodeGroup8 (w : Word) : Instr :=
  match (fieldN w).toNat with
  | 0x0 => .loadReg (fieldX w) (fieldY w)
  | 0x1 => .orReg (fieldX w) (fieldY w)
  | 0x2 => .andReg (fieldX w) (fieldY w)
  | 0x3 => .xorReg (fieldX w) (fieldY w)
  | 0x4 => .addReg (fieldX w) (fieldY w)
  | 0x5 => .sub (fieldX w) (fieldY w)
  | 0x6 => .shr (fieldX w)
  | 0x7 => .subn (fieldX w) (fieldY w)
  | 0xE => .shl (fieldX w)
  | _ => .nopUnmapped w

/-- Group 0xE, keyed by the low nibble (R51). -/
def decodeGroupE (w : Word) : Instr :=
  match (fieldN w).toNat with
  | 0xE => .skipKey (fieldX w)
  | 0x1 => .skipNotKey (fieldX w)
  | _ => .nopUnmapped w

/-- Group 0xF, keyed by the low byte (R52). -/
def decodeGroupF (w : Word) : Instr :=
  match (fieldKK w).toNat with
  | 0x07 => .readDelay (fieldX w)
  | 0x0A => .waitKey (fieldX w)
  | 0x15 => .setDelay (fieldX w)
  | 0x18 => .setSound (fieldX w)
  | 0x1E => .addIndex (fieldX w)
  | 0x29 => .fontChar (fieldX w)
  | 0x33 => .bcd (fieldX w)
  | 0x55 => .storeRegs (fieldX w)
  | 0x65 => .loadRegs (fieldX w)
  | _ => .nopUnmapped w

/-- `Decode(w)` (R48, R53, R63): every one of the 65536 words decodes. -/
def decodeWord (w : Word) : Instr :=
  match (fieldOP w).toNat with
  | 0x0 => decodeGroup0 w
  | 0x1 => .jump (fieldNNN w)
  | 0x2 => .call (fieldNNN w)
  | 0x3 => .skipEqImm (fieldX w) (fieldKK w)
  | 0x4 => .skipNeqImm (fieldX w) (fieldKK w)
  | 0x5 => .skipEqReg (fieldX w) (fieldY w)
  | 0x6 => .loadImm (fieldX w) (fieldKK w)
  | 0x7 => .addImm (fieldX w) (fieldKK w)
  | 0x8 => decodeGroup8 w
  | 0x9 => .skipNeqReg (fieldX w) (fieldY w)
  | 0xA => .loadIndex (fieldNNN w)
  | 0xB => .jumpOffset (fieldNNN w)
  | 0xC => .rand (fieldX w) (fieldKK w)
  | 0xD => .draw (fieldX w) (fieldY w) (fieldN w)
  | 0xE => decodeGroupE w
  | _ => decodeGroupF w

/-- Why the decoder of a byte sequence refuses: there is no illegal word (R54), so only bytes that end
before the word does are refused. -/
inductive DecodeError where
  /-- Fewer than the two bytes of a word (R45). -/
  | truncated
  deriving DecidableEq, Repr

/-- Two bytes of memory as a word, the byte at the lower address being the high byte (R33). -/
def joinBytes (hi lo : Byte) : Word := hi ++ lo

/-- The high byte of a word: the one at the lower address (R33). -/
def highByte (w : Word) : Byte := w.extractLsb' 8 8

/-- The low byte of a word. -/
def lowByte (w : Word) : Byte := w.extractLsb' 0 8

/-- The two bytes a word occupies, in address order (R45, R33). -/
def wordBytes (w : Word) : List Byte := [highByte w, lowByte w]

/-- The decoder on bytes: the instruction at their start and the bytes after it (R45). -/
def decode : List Byte → Except DecodeError (Instr × List Byte)
  | hi :: lo :: rest => .ok (decodeWord (joinBytes hi lo), rest)
  | _ => .error .truncated

/-! ### The opcode map (R59) -/

/-- A row of the map: a word `w` is the row's operation iff `w and mask = pattern`. -/
structure OpcodeRow where
  mask : Word
  pattern : Word
  deriving DecidableEq, Repr

/-- The row of an instruction (R59); the catch-all row of the no-op has lowest priority. -/
def opcodeRow : Instr → OpcodeRow
  | .clearScreen => ⟨0xF00F, 0x0000⟩
  | .ret => ⟨0xF00F, 0x000E⟩
  | .jump _ => ⟨0xF000, 0x1000⟩
  | .call _ => ⟨0xF000, 0x2000⟩
  | .skipEqImm _ _ => ⟨0xF000, 0x3000⟩
  | .skipNeqImm _ _ => ⟨0xF000, 0x4000⟩
  | .skipEqReg _ _ => ⟨0xF000, 0x5000⟩
  | .loadImm _ _ => ⟨0xF000, 0x6000⟩
  | .addImm _ _ => ⟨0xF000, 0x7000⟩
  | .loadReg _ _ => ⟨0xF00F, 0x8000⟩
  | .orReg _ _ => ⟨0xF00F, 0x8001⟩
  | .andReg _ _ => ⟨0xF00F, 0x8002⟩
  | .xorReg _ _ => ⟨0xF00F, 0x8003⟩
  | .addReg _ _ => ⟨0xF00F, 0x8004⟩
  | .sub _ _ => ⟨0xF00F, 0x8005⟩
  | .shr _ => ⟨0xF00F, 0x8006⟩
  | .subn _ _ => ⟨0xF00F, 0x8007⟩
  | .shl _ => ⟨0xF00F, 0x800E⟩
  | .skipNeqReg _ _ => ⟨0xF000, 0x9000⟩
  | .loadIndex _ => ⟨0xF000, 0xA000⟩
  | .jumpOffset _ => ⟨0xF000, 0xB000⟩
  | .rand _ _ => ⟨0xF000, 0xC000⟩
  | .draw _ _ _ => ⟨0xF000, 0xD000⟩
  | .skipNotKey _ => ⟨0xF00F, 0xE001⟩
  | .skipKey _ => ⟨0xF00F, 0xE00E⟩
  | .readDelay _ => ⟨0xF0FF, 0xF007⟩
  | .waitKey _ => ⟨0xF0FF, 0xF00A⟩
  | .setDelay _ => ⟨0xF0FF, 0xF015⟩
  | .setSound _ => ⟨0xF0FF, 0xF018⟩
  | .addIndex _ => ⟨0xF0FF, 0xF01E⟩
  | .fontChar _ => ⟨0xF0FF, 0xF029⟩
  | .bcd _ => ⟨0xF0FF, 0xF033⟩
  | .storeRegs _ => ⟨0xF0FF, 0xF055⟩
  | .loadRegs _ => ⟨0xF0FF, 0xF065⟩
  | .nopUnmapped _ => ⟨0x0000, 0x0000⟩

/-- The 34 rows before the catch-all, in the table's order (R59). -/
def opcodeRows : List OpcodeRow :=
  [⟨0xF00F, 0x0000⟩, ⟨0xF00F, 0x000E⟩, ⟨0xF000, 0x1000⟩, ⟨0xF000, 0x2000⟩, ⟨0xF000, 0x3000⟩,
   ⟨0xF000, 0x4000⟩, ⟨0xF000, 0x5000⟩, ⟨0xF000, 0x6000⟩, ⟨0xF000, 0x7000⟩] ++
  [⟨0xF00F, 0x8000⟩, ⟨0xF00F, 0x8001⟩, ⟨0xF00F, 0x8002⟩, ⟨0xF00F, 0x8003⟩, ⟨0xF00F, 0x8004⟩,
   ⟨0xF00F, 0x8005⟩, ⟨0xF00F, 0x8006⟩, ⟨0xF00F, 0x8007⟩, ⟨0xF00F, 0x800E⟩] ++
  [⟨0xF000, 0x9000⟩, ⟨0xF000, 0xA000⟩, ⟨0xF000, 0xB000⟩, ⟨0xF000, 0xC000⟩, ⟨0xF000, 0xD000⟩,
   ⟨0xF00F, 0xE001⟩, ⟨0xF00F, 0xE00E⟩] ++
  [⟨0xF0FF, 0xF007⟩, ⟨0xF0FF, 0xF00A⟩, ⟨0xF0FF, 0xF015⟩, ⟨0xF0FF, 0xF018⟩, ⟨0xF0FF, 0xF01E⟩,
   ⟨0xF0FF, 0xF029⟩, ⟨0xF0FF, 0xF033⟩, ⟨0xF0FF, 0xF055⟩, ⟨0xF0FF, 0xF065⟩]

/-! ### The encoder (R47, R56, R57) -/

/-- A word of format `NNN`. -/
def wordNNN (op : Nat) (nnn : Addr) : Word := BitVec.ofNat _ (op * 0x1000 + nnn.toNat)

/-- A word of format `XKK`; also `XSEL`, with the selector in the low byte. -/
def wordXKK (op : Nat) (x : Reg) (kk : Nat) : Word :=
  BitVec.ofNat _ (op * 0x1000 + x.val * 0x100 + kk)

/-- A word of format `XY` or `XYN`, with the selector or the count in the low nibble. -/
def wordXYN (op : Nat) (x y : Reg) (n : Nat) : Word :=
  BitVec.ofNat _ (op * 0x1000 + x.val * 0x100 + y.val * 0x10 + n)

/-- The word of an instruction in its conventional spelling (R57: zeros in the ignored bits, except
0xE0, 0xEE, 0x9E, 0xA1 in the low byte of clear-screen, return, skip-key, skip-notkey). -/
def encodeWord : Instr → Word
  | .clearScreen => 0x00E0
  | .ret => 0x00EE
  | .jump nnn => wordNNN 0x1 nnn
  | .call nnn => wordNNN 0x2 nnn
  | .skipEqImm x kk => wordXKK 0x3 x kk.toNat
  | .skipNeqImm x kk => wordXKK 0x4 x kk.toNat
  | .skipEqReg x y => wordXYN 0x5 x y 0x0
  | .loadImm x kk => wordXKK 0x6 x kk.toNat
  | .addImm x kk => wordXKK 0x7 x kk.toNat
  | .loadReg x y => wordXYN 0x8 x y 0x0
  | .orReg x y => wordXYN 0x8 x y 0x1
  | .andReg x y => wordXYN 0x8 x y 0x2
  | .xorReg x y => wordXYN 0x8 x y 0x3
  | .addReg x y => wordXYN 0x8 x y 0x4
  | .sub x y => wordXYN 0x8 x y 0x5
  | .shr x => wordXYN 0x8 x 0 0x6
  | .subn x y => wordXYN 0x8 x y 0x7
  | .shl x => wordXYN 0x8 x 0 0xE
  | .skipNeqReg x y => wordXYN 0x9 x y 0x0
  | .loadIndex nnn => wordNNN 0xA nnn
  | .jumpOffset nnn => wordNNN 0xB nnn
  | .rand x kk => wordXKK 0xC x kk.toNat
  | .draw x y n => wordXYN 0xD x y n.toNat
  | .skipNotKey x => wordXKK 0xE x 0xA1
  | .skipKey x => wordXKK 0xE x 0x9E
  | .readDelay x => wordXKK 0xF x 0x07
  | .waitKey x => wordXKK 0xF x 0x0A
  | .setDelay x => wordXKK 0xF x 0x15
  | .setSound x => wordXKK 0xF x 0x18
  | .addIndex x => wordXKK 0xF x 0x1E
  | .fontChar x => wordXKK 0xF x 0x29
  | .bcd x => wordXKK 0xF x 0x33
  | .storeRegs x => wordXKK 0xF x 0x55
  | .loadRegs x => wordXKK 0xF x 0x65
  | .nopUnmapped w => w

/-- The bytes of an instruction, in address order. -/
def encode (i : Instr) : List Byte := wordBytes (encodeWord i)

/-! ### The table's numbering of bits -/

/-- The word whose low `nbits` bits are those of `w` and whose other bits are 0: the hardware has one
16-bit word an instruction, and the table numbers its bits as the hardware does (R5, R45). -/
def tableWord (nbits w : Nat) : Word := BitVec.ofNat _ (w % 2 ^ nbits)

/-- The instruction the decoder reads from the bytes of such a word, laid out as memory holds them. -/
def decodeTableWord (nbits w : Nat) : Option Instr :=
  match decode (wordBytes (tableWord nbits w)) with
  | .ok (i, _) => some i
  | .error _ => none

end Sys2Proof
end

