-- ==== Sys2Proof/Machine/State.lean ====
section
/-!
DEFINITION. The machine's state as plain data (10_state.md), the reasons a meaning stops, and the state
after reset (R24).
-/

namespace Sys2Proof.Machine

/-- The six faults (60_exceptions.md R121). A meaning that meets one of these conditions answers the
fault, having changed nothing; the cycle then abandons everything the cycle did and sets the fault latch
(`State.takeFault`, R66), which is a next state. So `exec` answers faults and `step` never does (log
entry 9). All are SAFE: the source leaves the six cases undefined, and no value is invented. -/
inductive Fault where
  /-- Raised by the fetch of a cycle when `pc > 4094` (R33, R61). Safe. -/
  | fetchOutOfBounds
  /-- Raised by `call` when `sp = 16` (R77). Safe. -/
  | stackOverflow
  /-- Raised by `return` when `sp = 0` (R75). Safe. -/
  | stackUnderflow
  /-- Raised by `draw`, `bcd`, `store-regs`, `load-regs` when a byte they use lies above 4095 (R32). Safe. -/
  | memOutOfBounds
  /-- Raised by `draw` when a sprite bit of 1 maps outside the 64 by 32 grid (R71). Safe. -/
  | drawOutOfGrid
  /-- Raised by `skip-key` and `skip-notkey` when `x[X] > 15` (R110, R111). Safe. -/
  | keyIndexOutOfRange
  deriving DecidableEq, Repr

/-- Why an instruction is refused. -/
inductive Refusal where
  /-- An instruction of the table without a meaning in this model; no arm raises it. Safe. -/
  | notModelled (mnemonic : String)
  deriving DecidableEq, Repr

/-- What the host does in one gap between two cycles (70_reset_and_hazards.md R139, R137): it may reset
and load a program, it may write the timers, and it presents the inputs of the coming cycle. -/
structure HostTurn where
  /-- `some image`: reset, then load `image` at 0x200 (the empty image: reset alone) (R135, R44). -/
  boot : Option (List Byte)
  /-- `some v`: the host writes the delay timer (R15, R139). -/
  delay : Option (BitVec (delta% Config.timerWidth))
  /-- `some v`: the host writes the sound timer (R15, R139). -/
  sound : Option (BitVec (delta% Config.timerWidth))
  /-- The keypad snapshot of the coming cycle; bit `k` is 1 when key `k` is pressed (R16). -/
  key : BitVec (delta% Config.numKeys)
  /-- The random byte of the coming cycle (R21). -/
  rnd : Byte
  deriving DecidableEq, Repr

/-- Memory: the bytes that differ from the reset contents, by address (20_memory.md R30; log entry 15).
The form it is kept in is `Memory.wf`. -/
abbrev Memory := List Host.Cell

/-- The framebuffer: 32 rows, top to bottom, of 64 columns, left to right; `true` is on (R17). -/
abbrev Frame := Vector (Vector Bool (delta% Config.fbWidth)) (delta% Config.fbHeight)

/-- The complete state (10_state.md section 1). -/
@[ext]
structure State where
  /-- `x[0..15]`, the general registers; `x[15]` is the flag `VF` (R10, R11). -/
  x : Vector Byte (delta% Config.numRegs)
  /-- `I`, the index register: 16 bits, masked by nothing (R12). -/
  i : BitVec (delta% Config.indexWidth)
  /-- The program counter: 16 bits, masked by nothing (R13). -/
  pc : BitVec (delta% Config.pcWidth)
  /-- The return stack (R14). -/
  stack : Vector (BitVec (delta% Config.stackWidth)) (delta% Config.stackDepth)
  /-- The number of stack entries in use, 0 to 16 (R14, D16). -/
  sp : Fin (delta% Config.spSize)
  /-- The delay timer (R15). -/
  dt : BitVec (delta% Config.timerWidth)
  /-- The sound timer (R15). -/
  st : BitVec (delta% Config.timerWidth)
  /-- The most recently fetched word (R18). -/
  ir : Word
  /-- The 4096 bytes of memory (R19). -/
  mem : Memory
  /-- The framebuffer (R17). -/
  fb : Frame
  /-- `fault_code`, the latch: 0 when no fault has occurred (R20). -/
  faultCode : BitVec 3
  /-- `fault_pc`, the latch: the address of the faulting instruction (R20). -/
  faultPc : BitVec (delta% Config.pcWidth)
  /-- The keypad snapshot presented for the cycle (R16, R68). -/
  key : BitVec (delta% Config.numKeys)
  /-- The random byte presented for the cycle (R21, R68). -/
  rnd : Byte
  /-- The MODEL's own: the host's coming turns, oldest first; after them its turns are free (log entry 7). -/
  script : List HostTurn
  /-- The MODEL's own: how many turns the host has taken, read by the free values (log entry 6). -/
  turn : Nat
  deriving DecidableEq, Repr

/-- The state after reset (R24). Memory lists nothing: an unlisted byte reads as the reset contents.
`rnd`, `script` and `turn` are no state of the core, and their values here are the model's (log entries
5 and 8: DESIGN CHOICE). -/
def State.reset : State where
  x := Vector.replicate _ 0
  i := 0
  pc := BitVec.ofNat _ Config.progStart
  stack := Vector.replicate _ 0
  sp := 0
  dt := 0
  st := 0
  ir := 0
  mem := []
  fb := Vector.replicate _ (Vector.replicate _ false)
  faultCode := 0
  faultPc := 0
  key := 0
  rnd := 0
  script := []
  turn := 0

end Sys2Proof.Machine
end

