-- ==== Sys2Proof/Machine/Font.lean ====
section
/-!
DEFINITION. The font table and the reset contents of memory (10_state.md R24, R26). The bytes are the
spec's own, from general knowledge (D12; log entry 2: UNVERIFIED).
-/

namespace Sys2Proof.Machine

/-- `FONT[0..79]`: 16 glyphs of 5 bytes, top row first (R26). -/
def font : List Byte :=
  [0xF0, 0x90, 0x90, 0x90, 0xF0] ++ [0x20, 0x60, 0x20, 0x20, 0x70] ++
  [0xF0, 0x10, 0xF0, 0x80, 0xF0] ++ [0xF0, 0x10, 0xF0, 0x10, 0xF0] ++
  [0x90, 0x90, 0xF0, 0x10, 0x10] ++ [0xF0, 0x80, 0xF0, 0x10, 0xF0] ++
  [0xF0, 0x80, 0xF0, 0x90, 0xF0] ++ [0xF0, 0x10, 0x20, 0x40, 0x40] ++
  [0xF0, 0x90, 0xF0, 0x90, 0xF0] ++ [0xF0, 0x90, 0xF0, 0x10, 0xF0] ++
  [0xF0, 0x90, 0xF0, 0x90, 0x90] ++ [0xE0, 0x90, 0xE0, 0x90, 0xE0] ++
  [0xF0, 0x80, 0x80, 0x80, 0xF0] ++ [0xE0, 0x90, 0x90, 0x90, 0xE0] ++
  [0xF0, 0x80, 0xF0, 0x80, 0xF0] ++ [0xF0, 0x80, 0xF0, 0x80, 0x80]

/-- What an unlisted byte of memory reads as: the contents reset gives it (R24, R31). -/
def resetByte (a : Nat) : Byte :=
  if Config.fontStart ≤ a ∧ a < Config.fontStart + Config.fontBytes then
    font.getD (a - Config.fontStart) 0
  else 0

end Sys2Proof.Machine
end

