-- ==== Sys2Proof/Machine/Ops.lean ====
section
/-!
DEFINITION. The named operations over registers, memory, the stack, the timers and the framebuffer; the
parts of a cycle other than the instruction itself; taking a fault; and the host's moves. There is no
return from a fault: only reset clears the latch (60_exceptions.md R125), which is `State.boot` here.
-/

namespace Sys2Proof.Machine

/-! ### Registers -/

/-- `x[r]` (R10). -/
def State.reg (s : State) (r : Reg) : Byte := s.x[r.val]

/-- `x[r] <- v` (R10): no register is hardwired. -/
def State.setReg (s : State) (r : Reg) (v : Byte) : State := { s with x := s.x.set r.val v }

/-- `I <- v` (R12). -/
def State.setIndex (s : State) (v : Word) : State := { s with i := v }

/-- `pc <- v` (R13). -/
def State.setPc (s : State) (v : Word) : State := { s with pc := v }

/-- `dt <- v` (R15). -/
def State.setDelay (s : State) (v : Byte) : State := { s with dt := v }

/-- `st <- v` (R15). -/
def State.setSound (s : State) (v : Byte) : State := { s with st := v }

/-- Replace the memory. -/
def State.setMem (s : State) (m : Memory) : State := { s with mem := m }

/-- Replace the framebuffer. -/
def State.setFrame (s : State) (f : Frame) : State := { s with fb := f }

/-- `pc <- (pc + 2) mod 65536` if the condition holds: the skip of R7 and R83. -/
def State.skipIf (s : State) (c : Bool) : State := s.setPc (if c then s.pc + Config.pcStep else s.pc)

/-! ### The stack (R14) -/

/-- `stack[j]`; there is no entry 16, and that index is never read (R75, R77). -/
def State.stackEntry (s : State) (j : Nat) : Word := s.stack[j]?.getD 0

/-- `stack[sp] <- v; sp <- sp + 1`, used only with `sp < 16` (R77). -/
def State.push (s : State) (v : Word) : State :=
  { s with stack := s.stack.setIfInBounds s.sp.val v, sp := Fin.ofNat _ (s.sp.val + 1) }

/-- `sp <- sp - 1; pc <- stack[sp]`, used only with `sp > 0` (R75); the entry keeps its value. -/
def State.popToPc (s : State) : State :=
  { s with sp := Fin.ofNat _ (s.sp.val - 1), pc := s.stackEntry (s.sp.val - 1) }

/-! ### Memory (R30, R32) -/

/-- `mem[a]`: the listed byte, or the reset contents of an address that is not listed. -/
def Memory.read (m : Memory) (a : Nat) : Byte :=
  match m with
  | [] => resetByte a
  | (b, v) :: rest => if b = a then v else Memory.read rest a

/-- List the byte `v` at `a`, before the first larger address. -/
def Memory.insert (m : Memory) (a : Nat) (v : Byte) : Memory :=
  match m with
  | [] => [(a, v)]
  | (b, w) :: rest => if a < b then (a, v) :: (b, w) :: rest else (b, w) :: Memory.insert rest a v

/-- `mem[a] <- v`; a byte equal to its reset contents is not listed. -/
def Memory.write (m : Memory) (a : Nat) (v : Byte) : Memory :=
  let others := m.filter (fun p => p.1 ≠ a)
  if v = resetByte a then others else Memory.insert others a v

/-- The canonical form: addresses strictly rising, inside memory, no byte equal to its reset contents. -/
abbrev Memory.wf (m : Memory) : Prop :=
  m.Pairwise (fun p q => p.1 < q.1) ∧ ∀ p ∈ m, p.1 < Config.memSize ∧ p.2 ≠ resetByte p.1

/-- The `n` bytes from `a` upward. -/
def Memory.readBlock (m : Memory) (a n : Nat) : List Byte :=
  (List.range n).map (fun k => Memory.read m (a + k))

/-- Write bytes from `a` upward, in ascending order (R37). -/
def Memory.writeBlock (m : Memory) (a : Nat) (bs : List Byte) : Memory :=
  match bs with
  | [] => m
  | b :: rest => Memory.writeBlock (Memory.write m a b) (a + 1) rest

/-! ### The framebuffer (R17) -/

/-- `fb[r][c]`; a cell outside the grid does not exist (C6) and reads as off. -/
def Frame.cell (f : Frame) (r c : Nat) : Bool :=
  if h : r < (delta% Config.fbHeight) ∧ c < (delta% Config.fbWidth) then f[r][c] else false

/-- `fb[r][c] <- fb[r][c] xor 1` at the cell `(r, c)`, used only inside the grid (R71). -/
def Frame.toggle (f : Frame) (rc : Nat × Nat) : Frame :=
  if h : rc.1 < (delta% Config.fbHeight) ∧ rc.2 < (delta% Config.fbWidth) then
    f.set rc.1 (f[rc.1].set rc.2 (!f[rc.1][rc.2]))
  else f

/-- The screen with every cell off (R70). -/
def Frame.clear : Frame := Vector.replicate _ (Vector.replicate _ false)

/-! ### The parts of a cycle (40_cycle_driver.md R60) -/

/-- The word at `pc`, its high byte first, or nothing when `pc > 4094` (R33, R61). Any parity (R35). -/
def State.fetchWord (s : State) : Option Word :=
  if s.pc.toNat > Config.lastFetch then none
  else some (joinBytes (Memory.read s.mem s.pc.toNat) (Memory.read s.mem (s.pc.toNat + 1)))

/-- `ir <- w; pc <- (pc + 2) mod 65536` (R61, R62). -/
def State.advance (s : State) (w : Word) : State := { s with ir := w, pc := s.pc + Config.pcStep }

/-- A timer after one tick: one less while nonzero (R64). -/
def tickTimer (v : Byte) : Byte := if v = 0 then 0 else v - 1

/-- The tick of both timers (R64). -/
def State.tick (s : State) : State := { s with dt := tickTimer s.dt, st := tickTimer s.st }

/-! ### Taking a fault (R66, R121, R124) -/

/-- The code of a fault (R121). -/
def faultCodeOf : Fault → BitVec 3
  | .fetchOutOfBounds => 1
  | .stackOverflow => 2
  | .stackUnderflow => 3
  | .memOutOfBounds => 4
  | .drawOutOfGrid => 5
  | .keyIndexOutOfRange => 6

/-- The entry of a fault: `s` is the state at the START of the cycle, so nothing the cycle did is kept
but the latch (R66, R124). -/
def State.takeFault (s : State) (f : Fault) : State :=
  { s with faultCode := faultCodeOf f, faultPc := s.pc }

/-! ### The host's moves (70_reset_and_hazards.md R139) -/

/-- The memory after reset and the load of a program: the image from 0x200 up, cut at 3584 bytes (R44). -/
def loadImage (image : List Byte) : Memory :=
  Memory.writeBlock [] Config.progStart (image.take Config.romMax)

/-- Reset and program load (R135, R137). The host's own script and count go on. -/
def State.boot (s : State) (image : List Byte) : State :=
  { State.reset with mem := loadImage image, script := s.script, turn := s.turn }

/-- A turn for which the script says nothing: the host does any of what R139 lets it do (log entry 6). -/
def freeTurn (n : Nat) : HostTurn where
  boot := Config.freeBoot n
  delay := Config.freeDelay n
  sound := Config.freeSound n
  key := Config.freeKeypad n
  rnd := Config.freeRandom n

/-- The turn the host takes `k` turns from now: of its script, or a free one after the script's end (log
entry 7). -/
def State.turnAt (s : State) (k : Nat) : HostTurn := s.script.getD k (freeTurn (s.turn + k))

/-- The turn the host takes next. -/
def State.nextTurn (s : State) : HostTurn := s.turnAt 0

/-- Reset and load, if the host does so in this turn. -/
def State.bootIf (s : State) (b : Option (List Byte)) : State :=
  match b with
  | none => s
  | some image => s.boot image

/-- The inputs the host presents and the timers it writes (R139). -/
def State.present (s : State) (t : HostTurn) : State :=
  { s with dt := t.delay.getD s.dt, st := t.sound.getD s.st, key := t.key, rnd := t.rnd }

/-- The host's turn before a cycle: all it may do between two cycles (R139, D18). -/
def State.hostTurn (s : State) : State :=
  ({ s with script := s.script.tail, turn := s.turn + 1 }.bootIf s.nextTurn.boot).present s.nextTurn

/-! ### Placing an instruction -/

/-- `s` able to fetch in its next step: the latch clear, `pc` inside memory, no reset in the host's next
turn, which is otherwise as it would be (log entry 19). -/
def State.readyToFetch (s : State) : State :=
  { s with
    faultCode := 0
    faultPc := if s.faultCode = 0 then s.faultPc else 0
    pc := if s.pc.toNat > Config.lastFetch then BitVec.ofNat _ Config.progStart else s.pc
    script := { s.nextTurn with boot := none } :: s.script.tail }

/-- Store a word where the next fetch reads it. -/
def State.placeWord (s : State) (w : Word) : State :=
  let r := s.readyToFetch
  r.setMem (Memory.writeBlock r.mem r.pc.toNat (wordBytes w))

end Sys2Proof.Machine
end

