-- ==== Sys2Proof/Machine/Operands.lean ====
section
/-!
DEFINITION. The operand forms: immediates and addresses (30_encoding.md R56), the block of memory at `I`
(44_index_memory.md R106), decimal digits (R103), sprites (41_display.md R72) and keys (R110, R113).
-/

namespace Sys2Proof.Machine

/-! ### Immediates and register values as 16-bit numbers (R56) -/

/-- `zext_16(NNN)`. -/
def addrOperand (nnn : Addr) : Word := nnn.setWidth _

/-- `zext_16(x[X])`. -/
def byteOperand (v : Byte) : Word := v.setWidth _

/-! ### The block of memory at `I` (R32, R106) -/

/-- Every address `I + k`, `k < n`, is at most 4095; over the integers, with no wrap (R32). An
instruction that uses no byte checks none (R71 with N = 0). -/
def blockFits (i : Word) (n : Nat) : Bool := n = 0 || i.toNat + n ≤ Config.memSize

/-- The bytes at `I`, `I + 1`, ..., `I + n - 1`. -/
def State.blockAtIndex (s : State) (n : Nat) : List Byte := Memory.readBlock s.mem s.i.toNat n

/-- Store bytes at `I` and upward. -/
def State.storeAtIndex (s : State) (bs : List Byte) : State :=
  s.setMem (Memory.writeBlock s.mem s.i.toNat bs)

/-- The registers `x[0]`, ..., `x[X]` in order (R104): `X + 1` of them. -/
def State.regsUpTo (s : State) (x : Reg) : List Byte :=
  (List.range (x.val + 1)).map (fun k => s.reg (Fin.ofNat _ k))

/-- `x[k] <- mem[I + k]` for `k` from 0 to `X`, in order (R105). -/
def State.loadRegsUpTo (s : State) (x : Reg) : State :=
  (List.range (x.val + 1)).foldl
    (fun t k => t.setReg (Fin.ofNat _ k) (Memory.read s.mem (s.i.toNat + k))) s

/-- The hundreds, tens and ones digit of a byte, one byte each (R103). -/
def bcdDigits (v : Byte) : List Byte :=
  [BitVec.ofNat _ (v.toNat / 100), BitVec.ofNat _ (v.toNat / 10 % 10), BitVec.ofNat _ (v.toNat % 10)]

/-- `0x0050 + 5 * zext_16(v)`, the whole byte (R102). -/
def glyphAddress (v : Byte) : Word :=
  BitVec.ofNat _ (Config.fontStart + Config.glyphBytes * v.toNat)

/-! ### Sprites (R72) -/

/-- The bit of a sprite byte that stands in column `c` (`Config.spriteColumnBit`). -/
def spriteBit (b : Byte) (c : Nat) : Bool := b.getLsbD (Config.spriteColumnBit c)

/-- The cells (row, column) on which a sprite row at row `y` from column `x` has a bit of 1. -/
def spriteRow (b : Byte) (x y : Nat) : List (Nat × Nat) :=
  ((List.range Config.spriteWidth).filter (spriteBit b)).map (fun c => (y, x + c))

/-- The cells on which a sprite has a bit of 1, row by row, inside the grid or not (R72). -/
def spriteCells (bs : List Byte) (x y : Nat) : List (Nat × Nat) :=
  match bs with
  | [] => []
  | b :: rest => spriteRow b x y ++ spriteCells rest x (y + 1)

/-- The cell exists: column at most 63, row at most 31 (R72). -/
def inGrid (rc : Nat × Nat) : Bool := rc.1 < Config.fbHeight && rc.2 < Config.fbWidth

/-- The lit cells of the sprite of `draw X,Y,N`: its `N` bytes at `I`, started at column `x[X] mod 64`
and row `x[Y] mod 32`, not reduced after that (R72). -/
def State.drawCells (s : State) (x y : Reg) (n : Nibble) : List (Nat × Nat) :=
  spriteCells (s.blockAtIndex n.toNat) ((s.reg x).toNat % Config.fbWidth)
    ((s.reg y).toNat % Config.fbHeight)

/-! ### Keys (R16) -/

/-- The value names a key: 0 to 15 (R110). -/
def isKey (k : Byte) : Bool := k.toNat < Config.numKeys

/-- `key[k] = 1`. -/
def keyPressed (key : Word) (k : Nat) : Bool := key.getLsbD k

/-- The least `k` in 0..15 with `key[k] = 1` (R113); used only when some key is pressed. -/
def lowestKey (key : Word) : Byte :=
  BitVec.ofNat _ (((List.range Config.numKeys).find? (keyPressed key)).getD 0)

end Sys2Proof.Machine
end

