-- ==== Sys2Proof/Machine/Flags.lean ====
section
/-!
DEFINITION. Every flag computation: the values that the six flag-writing instructions put into `VF`
(10_state.md R11), each 0x00 or 0x01.
-/

namespace Sys2Proof.Machine

/-- A flag as the byte 0x00 or 0x01 (R11). -/
def flagByte (b : Bool) : Byte := if b then 1 else 0

/-- `add-reg`: the 9-bit sum exceeds 255 (R91). -/
def carryFlag (a b : Byte) : Byte := flagByte (a.toNat + b.toNat > 255)

/-- `sub` and `subn`: the minuend is greater than the subtrahend, strictly and unsigned (R92, R94). -/
def greaterFlag (a b : Byte) : Byte := flagByte (a.toNat > b.toNat)

/-- `shr`: bit 0 before the shift (R93). -/
def lowBitFlag (a : Byte) : Byte := flagByte (a.getLsbD 0)

/-- `shl`: bit 7 before the shift (R95). -/
def highBitFlag (a : Byte) : Byte := flagByte (a.getLsbD (Config.regWidth - 1))

/-- `draw`: some lit sprite cell lands on a cell that is on before the instruction; 0 when none does
(R71, D9; log entries 12 and 21). -/
def collisionFlag (f : Frame) (cells : List (Nat × Nat)) : Byte :=
  flagByte (cells.any (fun rc => Frame.cell f rc.1 rc.2))

end Sys2Proof.Machine
end

