-- ==== Sys2Proof/Machine/Alu.lean ====
section
/-!
DEFINITION. Register loads, arithmetic, logic, random (43_load_alu.md). `add-reg` forms its sum from the
operands as they are before the instruction; `sub`, `shr`, `subn` and `shl` write the flag first and
compute the result from the register file as that write left it (R97, D13; log entry 11).
-/

namespace Sys2Proof.Machine

/-- `load-imm X,KK` (R85). -/
def execLoadImm (x : Reg) (kk : Byte) (s : State) : Host.Outcome State Fault Refusal :=
  .next (s.setReg x kk)

/-- `add-imm X,KK` (R86): no flag. -/
def execAddImm (x : Reg) (kk : Byte) (s : State) : Host.Outcome State Fault Refusal :=
  .next (s.setReg x (s.reg x + kk))

/-- `load-reg X,Y` (R87). -/
def execLoadReg (x y : Reg) (s : State) : Host.Outcome State Fault Refusal :=
  .next (s.setReg x (s.reg y))

/-- `or X,Y` (R88): `VF` is not touched. -/
def execOr (x y : Reg) (s : State) : Host.Outcome State Fault Refusal :=
  .next (s.setReg x (s.reg x ||| s.reg y))

/-- `and X,Y` (R89): `VF` is not touched. -/
def execAnd (x y : Reg) (s : State) : Host.Outcome State Fault Refusal :=
  .next (s.setReg x (s.reg x &&& s.reg y))

/-- `xor X,Y` (R90): `VF` is not touched. -/
def execXor (x y : Reg) (s : State) : Host.Outcome State Fault Refusal :=
  .next (s.setReg x (s.reg x ^^^ s.reg y))

/-- `add-reg X,Y` (R91). -/
def execAddReg (x y : Reg) (s : State) : Host.Outcome State Fault Refusal :=
  .next ((s.setReg VF (carryFlag (s.reg x) (s.reg y))).setReg x (s.reg x + s.reg y))

/-- `sub X,Y` (R92). -/
def execSub (x y : Reg) (s : State) : Host.Outcome State Fault Refusal :=
  let t := s.setReg VF (greaterFlag (s.reg x) (s.reg y))
  .next (t.setReg x (t.reg x - t.reg y))

/-- `shr X` (R93). -/
def execShr (x : Reg) (s : State) : Host.Outcome State Fault Refusal :=
  let t := s.setReg VF (lowBitFlag (s.reg x))
  .next (t.setReg x (t.reg x >>> 1))

/-- `subn X,Y` (R94). -/
def execSubn (x y : Reg) (s : State) : Host.Outcome State Fault Refusal :=
  let t := s.setReg VF (greaterFlag (s.reg y) (s.reg x))
  .next (t.setReg x (t.reg y - t.reg x))

/-- `shl X` (R95). -/
def execShl (x : Reg) (s : State) : Host.Outcome State Fault Refusal :=
  let t := s.setReg VF (highBitFlag (s.reg x))
  .next (t.setReg x (t.reg x <<< 1))

/-- `rand X,KK` (R96): the random byte is the input of the cycle. -/
def execRand (x : Reg) (kk : Byte) (s : State) : Host.Outcome State Fault Refusal :=
  .next (s.setReg x (s.rnd &&& kk))

end Sys2Proof.Machine
end

