-- ==== Sys2Proof/Machine/Control.lean ====
section
/-!
DEFINITION. Control transfer (42_control_transfer.md): targets are absolute and unchecked (R84); a skip
adds exactly 2 to the `pc` the fetch has already advanced (R83).
-/

namespace Sys2Proof.Machine

/-- `return` (R75). -/
def execReturn (s : State) : Host.Outcome State Fault Refusal :=
  if s.sp.val = 0 then .fault .stackUnderflow else .next s.popToPc

/-- `jump NNN` (R76). -/
def execJump (nnn : Addr) (s : State) : Host.Outcome State Fault Refusal :=
  .next (s.setPc (addrOperand nnn))

/-- `call NNN` (R77): the pushed value is the advanced `pc`. -/
def execCall (nnn : Addr) (s : State) : Host.Outcome State Fault Refusal :=
  if s.sp.val = Config.stackDepth then .fault .stackOverflow
  else .next ((s.push s.pc).setPc (addrOperand nnn))

/-- `skip-eq-imm X,KK` (R78). -/
def execSkipEqImm (x : Reg) (kk : Byte) (s : State) : Host.Outcome State Fault Refusal :=
  .next (s.skipIf (s.reg x = kk))

/-- `skip-neq-imm X,KK` (R79). -/
def execSkipNeqImm (x : Reg) (kk : Byte) (s : State) : Host.Outcome State Fault Refusal :=
  .next (s.skipIf (s.reg x ≠ kk))

/-- `skip-eq-reg X,Y` (R80). -/
def execSkipEqReg (x y : Reg) (s : State) : Host.Outcome State Fault Refusal :=
  .next (s.skipIf (s.reg x = s.reg y))

/-- `skip-neq-reg X,Y` (R81). -/
def execSkipNeqReg (x y : Reg) (s : State) : Host.Outcome State Fault Refusal :=
  .next (s.skipIf (s.reg x ≠ s.reg y))

/-- `jump-offset NNN` (R82): the offset register is always `x[0]`; no 12-bit mask. -/
def execJumpOffset (nnn : Addr) (s : State) : Host.Outcome State Fault Refusal :=
  .next (s.setPc (byteOperand (s.reg V0) + addrOperand nnn))

end Sys2Proof.Machine
end

