-- ==== Sys2Proof/Machine/Display.lean ====
section
/-!
DEFINITION. The display instructions (41_display.md). As in every meaning, `s` is the state after the
fetch of the cycle: `pc` is already advanced (40_cycle_driver.md R62, R63).
-/

namespace Sys2Proof.Machine

/-- `clear-screen` (R70). -/
def execClearScreen (s : State) : Host.Outcome State Fault Refusal := .next (s.setFrame Frame.clear)

/-- `draw X,Y,N` (R71): every byte is read before any pixel is examined, and every pixel before anything
is written (R123). -/
def execDraw (x y : Reg) (n : Nibble) (s : State) : Host.Outcome State Fault Refusal :=
  if blockFits s.i n.toNat then
    let cells := s.drawCells x y n
    if cells.all inGrid then
      .next ((s.setReg VF (collisionFlag s.fb cells)).setFrame (cells.foldl Frame.toggle s.fb))
    else .fault .drawOutOfGrid
  else .fault .memOutOfBounds

end Sys2Proof.Machine
end

