-- ==== Sys2Proof/Machine/Index.lean ====
section
/-!
DEFINITION. The index register and memory (44_index_memory.md): the only addressing mode is `I + k`, and
`I` is never changed by an access (R106).
-/

namespace Sys2Proof.Machine

/-- `load-index NNN` (R100). -/
def execLoadIndex (nnn : Addr) (s : State) : Host.Outcome State Fault Refusal :=
  .next (s.setIndex (addrOperand nnn))

/-- `add-index X` (R101): modulo 65536, no flag, no 12-bit mask. -/
def execAddIndex (x : Reg) (s : State) : Host.Outcome State Fault Refusal :=
  .next (s.setIndex (s.i + byteOperand (s.reg x)))

/-- `font-char X` (R102). -/
def execFontChar (x : Reg) (s : State) : Host.Outcome State Fault Refusal :=
  .next (s.setIndex (glyphAddress (s.reg x)))

/-- `bcd X` (R103). -/
def execBcd (x : Reg) (s : State) : Host.Outcome State Fault Refusal :=
  if blockFits s.i 3 then .next (s.storeAtIndex (bcdDigits (s.reg x))) else .fault .memOutOfBounds

/-- `store-regs X` (R104). -/
def execStoreRegs (x : Reg) (s : State) : Host.Outcome State Fault Refusal :=
  if blockFits s.i (x.val + 1) then .next (s.storeAtIndex (s.regsUpTo x)) else .fault .memOutOfBounds

/-- `load-regs X` (R105). -/
def execLoadRegs (x : Reg) (s : State) : Host.Outcome State Fault Refusal :=
  if blockFits s.i (x.val + 1) then .next (s.loadRegsUpTo x) else .fault .memOutOfBounds

end Sys2Proof.Machine
end

