-- ==== Sys2Proof/Machine/Keypad.lean ====
section
/-!
DEFINITION. Keypad and timers (45_keypad_timers.md). `key` is the snapshot presented for the cycle (R68);
the tick that follows the instruction is the cycle's (R64).
-/

namespace Sys2Proof.Machine

/-- `skip-key X` (R110). -/
def execSkipKey (x : Reg) (s : State) : Host.Outcome State Fault Refusal :=
  if isKey (s.reg x) then .next (s.skipIf (keyPressed s.key (s.reg x).toNat))
  else .fault .keyIndexOutOfRange

/-- `skip-notkey X` (R111). -/
def execSkipNotKey (x : Reg) (s : State) : Host.Outcome State Fault Refusal :=
  if isKey (s.reg x) then .next (s.skipIf (!keyPressed s.key (s.reg x).toNat))
  else .fault .keyIndexOutOfRange

/-- `read-delay X` (R112): the value before the tick of the cycle. -/
def execReadDelay (x : Reg) (s : State) : Host.Outcome State Fault Refusal :=
  .next (s.setReg x s.dt)

/-- `wait-key X` (R113). -/
def execWaitKey (x : Reg) (s : State) : Host.Outcome State Fault Refusal :=
  .next (if s.key = 0 then s.setPc (s.pc - Config.pcStep) else s.setReg x (lowestKey s.key))

/-- `set-delay X` (R114). -/
def execSetDelay (x : Reg) (s : State) : Host.Outcome State Fault Refusal :=
  .next (s.setDelay (s.reg x))

/-- `set-sound X` (R115). -/
def execSetSound (x : Reg) (s : State) : Host.Outcome State Fault Refusal :=
  .next (s.setSound (s.reg x))

end Sys2Proof.Machine
end

