-- ==== Sys2Proof/Machine/Nop.lean ====
section
/-!
DEFINITION. The no-op of every unmapped word (40_cycle_driver.md R65). There are no system instructions
(45_keypad_timers.md R116).
-/

namespace Sys2Proof.Machine

/-- `nop-unmapped` (R65, R54): nothing, whatever the word. -/
def execNopUnmapped (_w : Word) (s : State) : Host.Outcome State Fault Refusal := .next s

end Sys2Proof.Machine
end

