-- ==== Sys2Proof/Machine/Cycle.lean ====
section
/-!
DEFINITION. One cycle (40_cycle_driver.md R60) on the inputs `key` and `rnd` presented for it, which stand
in the state (R68).
-/

namespace Sys2Proof.Machine

/-- The end of a cycle that started in `s0`: the tick after an instruction that completed (R64), or the
fault latch and nothing else (R66). -/
def finishCycle (s0 : State) (o : Host.Outcome State Fault Refusal) :
    Host.Outcome State Fault Refusal :=
  match o with
  | .next t => .next t.tick
  | .fault f => .next (s0.takeFault f)
  | .refused r => .refused r

/-- `Cycle(key, rnd)` (R60): nothing when halted (R67); else fetch, advance, execute, tick. -/
def cycle (s : State) : Host.Outcome State Fault Refusal :=
  if s.faultCode = 0 then
    match s.fetchWord with
    | none => finishCycle s (.fault .fetchOutOfBounds)
    | some w => finishCycle s (exec (decodeWord w) (s.advance w))
  else .next s

end Sys2Proof.Machine
end

