-- ==== Sys2Proof/Machine/Step.lean ====
section
/-!
DEFINITION. The step: the host's turn, then one cycle (00_scope.md R8, 70_reset_and_hazards.md R139).
-/

namespace Sys2Proof.Machine

/-- One step: what the host does between two cycles, and the cycle that follows (R8, R60, R139). -/
def step (s : State) : Host.Outcome State Fault Refusal := cycle s.hostTurn

/-- `s` with the instruction of the low `nbits` bits of `w` stored where the next step fetches it. -/
def State.withFetchWord (s : State) (nbits w : Nat) : State := s.placeWord (tableWord nbits w)

end Sys2Proof.Machine
end

