-- ==== Sys2Proof/Safety.lean ====
section
/-!
DEFINITION. The terms claims are stated in: the invariant of the machine, what an instruction leaves
unchanged, when a fault is raised, which states a run reaches, and a safe run.
-/

namespace Sys2Proof.Machine

/-! ### The invariant -/

/-- The invariant every step keeps: memory is in its canonical form; `pc` and every stack entry lie where
R13 and R77 put them; the latch holds a code of R121 and an address that fits it (R20, R27, R66, R67). -/
structure Inv (s : State) : Prop where
  mem_wf : Memory.wf s.mem
  pc_le : s.pc.toNat ≤ 0x10FE
  stack_le : ∀ j, (s.stackEntry j).toNat ≤ 0x1000
  code_le : s.faultCode.toNat ≤ 6
  latch_clear : s.faultCode = 0 → s.faultPc = 0
  latch_pc : s.faultCode ≠ 0 → s.faultPc = s.pc

/-! ### Frames -/

/-- Every byte of memory reads in `t` as it reads in `s`. -/
def SameMemory (s t : State) : Prop := ∀ a, Memory.read t.mem a = Memory.read s.mem a

/-- Nothing but general registers differs: `I`, `pc`, the stack, both timers, `ir`, every byte of memory,
the screen, the latch, the inputs and the host's script are as before. -/
def OnlyRegs (s t : State) : Prop := t = { s with x := t.x } ∧ SameMemory s t

/-- Nothing but `pc` differs. -/
def OnlyPc (s t : State) : Prop := t = { s with pc := t.pc } ∧ SameMemory s t

/-- Nothing but `I` differs. -/
def OnlyIndex (s t : State) : Prop := t = { s with i := t.i } ∧ SameMemory s t

/-- Nothing but memory differs. -/
def OnlyMemory (s t : State) : Prop := t = { s with mem := t.mem }

/-- Every register but those in `rs` is as before. -/
def RegsBut (rs : List Reg) (s t : State) : Prop := ∀ r, r ∉ rs → t.reg r = s.reg r

/-- Every cell of the screen is as before. -/
def SameScreen (s t : State) : Prop := ∀ r c, Frame.cell t.fb r c = Frame.cell s.fb r c

/-! ### Sprites, as coordinates -/

/-- The sprite of `draw X,Y,N` has a bit of 1 on the cell in row `r` and column `c` (R72). -/
def SpriteOn (s : State) (x y : Reg) (n : Nibble) (r c : Nat) : Prop :=
  ∃ k j, k < n.toNat ∧ j < 8 ∧ r = (s.reg y).toNat % 32 + k ∧ c = (s.reg x).toNat % 64 + j ∧
    (Memory.read s.mem (s.i.toNat + k)).getLsbD (7 - j) = true

/-! ### Faults -/

/-- The condition under which executing an instruction raises a fault (R121, with the priority of R123),
written from R121's table: register and memory numbers over the integers. -/
def RaisesFault (i : Instr) (s : State) (f : Fault) : Prop :=
  match i with
  | .ret => f = .stackUnderflow ∧ s.sp.val = 0
  | .call _ => f = .stackOverflow ∧ s.sp.val = 16
  | .bcd _ => f = .memOutOfBounds ∧ s.i.toNat + 2 > 4095
  | .storeRegs x => f = .memOutOfBounds ∧ s.i.toNat + x.val > 4095
  | .loadRegs x => f = .memOutOfBounds ∧ s.i.toNat + x.val > 4095
  | .skipKey x => f = .keyIndexOutOfRange ∧ (s.reg x).toNat > 15
  | .skipNotKey x => f = .keyIndexOutOfRange ∧ (s.reg x).toNat > 15
  | .draw x y n =>
    if n.toNat > 0 ∧ s.i.toNat + n.toNat - 1 > 4095 then f = .memOutOfBounds
    else f = .drawOutOfGrid ∧ ∃ r c, SpriteOn s x y n r c ∧ (c > 63 ∨ r > 31)
  | .clearScreen | .jump _ | .skipEqImm _ _ | .skipNeqImm _ _ | .skipEqReg _ _ | .loadImm _ _
  | .addImm _ _ | .loadReg _ _ | .orReg _ _ | .andReg _ _ | .xorReg _ _ | .addReg _ _ | .sub _ _
  | .shr _ | .subn _ _ | .shl _ | .skipNeqReg _ _ | .loadIndex _ | .jumpOffset _ | .rand _ _
  | .readDelay _ | .waitKey _ | .setDelay _ | .setSound _ | .addIndex _ | .fontChar _
  | .nopUnmapped _ => False

/-- The latch is set: the machine does nothing until reset (R67). -/
def State.halted (s : State) : Prop := s.faultCode ≠ 0

/-! ### Destinations and the flag -/

/-- The general registers an instruction names as its destination, from the rules of its family. -/
def destRegs : Instr → List Reg
  | .loadImm x _ | .addImm x _ | .loadReg x _ | .orReg x _ | .andReg x _ | .xorReg x _ | .addReg x _
  | .sub x _ | .shr x | .subn x _ | .shl x | .rand x _ | .readDelay x | .waitKey x => [x]
  | .loadRegs x => (List.finRange 16).filter (· ≤ x)
  | .clearScreen | .ret | .jump _ | .call _ | .skipEqImm _ _ | .skipNeqImm _ _ | .skipEqReg _ _
  | .skipNeqReg _ _ | .loadIndex _ | .jumpOffset _ | .draw _ _ _ | .skipNotKey _ | .skipKey _
  | .setDelay _ | .setSound _ | .addIndex _ | .fontChar _ | .bcd _ | .storeRegs _ | .nopUnmapped _ => []

/-- The flag an instruction writes to `VF` as a side effect, as R11 lists it: exactly six do. -/
def sideFlag (s : State) : Instr → Option Prop
  | .addReg x y => some ((s.reg x).toNat + (s.reg y).toNat > 255)
  | .sub x y => some ((s.reg x).toNat > (s.reg y).toNat)
  | .subn x y => some ((s.reg y).toNat > (s.reg x).toNat)
  | .shr x => some ((s.reg x).getLsbD 0 = true)
  | .shl x => some ((s.reg x).getLsbD 7 = true)
  | .draw x y n => some (∃ r c, SpriteOn s x y n r c ∧ Frame.cell s.fb r c = true)
  | .clearScreen | .ret | .jump _ | .call _ | .skipEqImm _ _ | .skipNeqImm _ _ | .skipEqReg _ _
  | .loadImm _ _ | .addImm _ _ | .loadReg _ _ | .orReg _ _ | .andReg _ _ | .xorReg _ _
  | .skipNeqReg _ _ | .loadIndex _ | .jumpOffset _ | .rand _ _ | .skipNotKey _ | .skipKey _
  | .readDelay _ | .waitKey _ | .setDelay _ | .setSound _ | .addIndex _ | .fontChar _ | .bcd _
  | .storeRegs _ | .loadRegs _ | .nopUnmapped _ => none

/-- Register `r` as it is after the flag `f` has been written to `VF` (R97). -/
def regAfterFlag (s : State) (f : Byte) (r : Reg) : Byte := if r = VF then f else s.reg r

/-- The instruction reads the keypad (R16). -/
def readsKey : Instr → Bool
  | .skipKey _ | .skipNotKey _ | .waitKey _ => true
  | .clearScreen | .ret | .jump _ | .call _ | .skipEqImm _ _ | .skipNeqImm _ _ | .skipEqReg _ _
  | .loadImm _ _ | .addImm _ _ | .loadReg _ _ | .orReg _ _ | .andReg _ _ | .xorReg _ _ | .addReg _ _
  | .sub _ _ | .shr _ | .subn _ _ | .shl _ | .skipNeqReg _ _ | .loadIndex _ | .jumpOffset _
  | .rand _ _ | .draw _ _ _ | .readDelay _ | .setDelay _ | .setSound _ | .addIndex _ | .fontChar _
  | .bcd _ | .storeRegs _ | .loadRegs _ | .nopUnmapped _ => false

/-- The same change made to the state of an outcome that has one. -/
def mapNext (g : State → State) : Host.Outcome State Fault Refusal → Host.Outcome State Fault Refusal
  | .next t => .next (g t)
  | .fault f => .fault f
  | .refused r => .refused r

/-! ### Runs -/

/-- A run from reset, with some script of the host's, reaches `s` (R27): `n` steps, each the host's turn
and a cycle. -/
def Reachable (s : State) : Prop :=
  ∃ (script : List HostTurn) (n : Nat),
    Host.Core.run Sys2Proof.core n { State.reset with script := script } = .next s

/-- The host resets in none of its next `n` turns: the named premise of a claim on a run without reset. -/
def NoResetFor (n : Nat) (s : State) : Prop := ∀ k, k < n → (s.turnAt k).boot = none

/-- A program is well formed (93_implementation_defined.md U16, R142): whatever the host presents and
writes, without another reset, no run of it sets the fault latch. -/
def WellFormedProgram (image : List Byte) : Prop :=
  ∀ (script : List HostTurn) (n : Nat) (s : State),
    NoResetFor n { State.reset.boot image with script := script } →
    Host.Core.run Sys2Proof.core n { State.reset.boot image with script := script } = .next s →
    ¬ s.halted

/-- Parked at `a`: the next fetch reads `jump a` at address `a` (70_reset_and_hazards.md R145, D22). -/
def ParkedAt (a : Addr) (s : State) : Prop :=
  s.faultCode = 0 ∧ s.pc = a.setWidth 16 ∧ ∃ w, s.fetchWord = some w ∧ decodeWord w = .jump a

end Sys2Proof.Machine
end

