-- ==== Sys2Proof/Certificates/Slice0/Obligations.lean ====
section
/-!
DEFINITION. The statements for the provers. Each docstring names the rules of spec/ it formalises. In the
statements about `exec`, the state is the one after the fetch, with `pc` advanced (R62, R63); a clause
about a whole cycle says so. The clause on words gives the instruction's encoding (R59; the numbers are log
entry 1) and its operands (R46). Where a rule holds by a decision of the spec (a D number of
92_eei_decisions.md), or is an inference the spec marks as its own, the docstring says so.
-/

open Sys2Proof Sys2Proof.Machine

/-! ### Display -/

/-- R70: `clear-screen` turns every cell off and changes nothing else. -/
def Obligations.ClearScreenTurnsEveryCellOff : Prop :=
  (∀ w : Word, w &&& 0xF00F = 0x0000 → decodeWord w = .clearScreen) ∧
  ∀ s : State, ∃ t, exec .clearScreen s = .next t ∧ (∀ r c, Frame.cell t.fb r c = false) ∧
    t = { s with fb := t.fb } ∧ SameMemory s t

/-- R71, R72: `draw` toggles exactly the cells under the sprite's bits of 1, writes `VF` to 1 when one
of them was on and to 0 otherwise, and changes nothing else; it faults first on an unreadable byte, then
on a bit of 1 outside the grid (decisions D5, D7, D9, D10, D20; log entries 3, 10, 12). -/
def Obligations.DrawXorsTheSprite : Prop :=
  (∀ w : Word, w &&& 0xF000 = 0xD000 → decodeWord w = .draw (fieldX w) (fieldY w) (fieldN w)) ∧
  ∀ (x y : Reg) (n : Nibble) (s : State),
    (n.toNat > 0 ∧ s.i.toNat + n.toNat - 1 > 4095 → exec (.draw x y n) s = .fault .memOutOfBounds) ∧
    ((n.toNat = 0 ∨ s.i.toNat + n.toNat - 1 ≤ 4095) →
      (∃ r c, SpriteOn s x y n r c ∧ (c > 63 ∨ r > 31)) →
      exec (.draw x y n) s = .fault .drawOutOfGrid) ∧
    ((n.toNat = 0 ∨ s.i.toNat + n.toNat - 1 ≤ 4095) →
      (∀ r c, SpriteOn s x y n r c → c ≤ 63 ∧ r ≤ 31) →
      ∃ t, exec (.draw x y n) s = .next t ∧
        (∀ r c, SpriteOn s x y n r c → Frame.cell t.fb r c = !Frame.cell s.fb r c) ∧
        (∀ r c, ¬ SpriteOn s x y n r c → Frame.cell t.fb r c = Frame.cell s.fb r c) ∧
        ((∃ r c, SpriteOn s x y n r c ∧ Frame.cell s.fb r c = true) → t.reg VF = 1) ∧
        (¬ (∃ r c, SpriteOn s x y n r c ∧ Frame.cell s.fb r c = true) → t.reg VF = 0) ∧
        RegsBut [VF] s t ∧ t = { s with x := t.x, fb := t.fb } ∧ SameMemory s t)

/-- R71: drawing the same sprite twice at the same place restores the screen, and the second draw sets
`VF` to 1 exactly when some cell under a bit of 1 was off at first (log entry 22: R71's corner case says
"if the sprite has any bit of 1", which its own pseudocode gives only for such a screen). The registers
that give the place are not `VF`. -/
def Obligations.DrawTwiceRestoresTheScreen : Prop :=
  ∀ (x y : Reg) (n : Nibble) (s t : State), x ≠ VF → y ≠ VF →
    exec (.draw x y n) s = .next t →
    ∃ u, exec (.draw x y n) t = .next u ∧ u.fb = s.fb ∧
      ((∃ r c, SpriteOn s x y n r c ∧ Frame.cell s.fb r c = false) → u.reg VF = 1) ∧
      (¬ (∃ r c, SpriteOn s x y n r c ∧ Frame.cell s.fb r c = false) → u.reg VF = 0)

/-! ### Control transfer -/

/-- R75: `return` pops the stack into `pc`, or faults on an empty stack (decision D4; log entry 10). -/
def Obligations.ReturnPopsTheStack : Prop :=
  (∀ w : Word, w &&& 0xF00F = 0x000E → decodeWord w = .ret) ∧
  ∀ s : State,
    (s.sp.val = 0 → exec .ret s = .fault .stackUnderflow) ∧
    (s.sp.val ≠ 0 → ∃ t, exec .ret s = .next t ∧ t.sp.val = s.sp.val - 1 ∧
      t.pc = s.stackEntry (s.sp.val - 1) ∧ t = { s with sp := t.sp, pc := t.pc } ∧ SameMemory s t)

/-- R76: `jump` writes `NNN` to `pc` and nothing else. -/
def Obligations.JumpWritesPc : Prop :=
  (∀ w : Word, w &&& 0xF000 = 0x1000 → decodeWord w = .jump (fieldNNN w)) ∧
  ∀ (nnn : Addr) (s : State), ∃ t, exec (.jump nnn) s = .next t ∧ t.pc.toNat = nnn.toNat ∧ OnlyPc s t

/-- R77: `call` pushes the advanced `pc` and jumps, or faults on a full stack (decision D3; log entry
10). -/
def Obligations.CallPushesTheReturnAddress : Prop :=
  (∀ w : Word, w &&& 0xF000 = 0x2000 → decodeWord w = .call (fieldNNN w)) ∧
  ∀ (nnn : Addr) (s : State),
    (s.sp.val = 16 → exec (.call nnn) s = .fault .stackOverflow) ∧
    (s.sp.val ≠ 16 → ∃ t, exec (.call nnn) s = .next t ∧ t.stackEntry s.sp.val = s.pc ∧
      (∀ j, j ≠ s.sp.val → t.stackEntry j = s.stackEntry j) ∧ t.sp.val = s.sp.val + 1 ∧
      t.pc.toNat = nnn.toNat ∧ t = { s with stack := t.stack, sp := t.sp, pc := t.pc } ∧
      SameMemory s t)

/-- R78, R83: `skip-eq-imm` adds 2 to the advanced `pc` when `x[X] = KK`. -/
def Obligations.SkipEqImmSkipsOnEqual : Prop :=
  (∀ w : Word, w &&& 0xF000 = 0x3000 → decodeWord w = .skipEqImm (fieldX w) (fieldKK w)) ∧
  ∀ (x : Reg) (kk : Byte) (s : State), ∃ t, exec (.skipEqImm x kk) s = .next t ∧
    (s.reg x = kk → t.pc = s.pc + 2) ∧ (s.reg x ≠ kk → t.pc = s.pc) ∧ OnlyPc s t

/-- R79, R83: `skip-neq-imm` adds 2 to the advanced `pc` when `x[X] ≠ KK`. -/
def Obligations.SkipNeqImmSkipsOnDifferent : Prop :=
  (∀ w : Word, w &&& 0xF000 = 0x4000 → decodeWord w = .skipNeqImm (fieldX w) (fieldKK w)) ∧
  ∀ (x : Reg) (kk : Byte) (s : State), ∃ t, exec (.skipNeqImm x kk) s = .next t ∧
    (s.reg x ≠ kk → t.pc = s.pc + 2) ∧ (s.reg x = kk → t.pc = s.pc) ∧ OnlyPc s t

/-- R80, R83: `skip-eq-reg` adds 2 to the advanced `pc` when `x[X] = x[Y]`. -/
def Obligations.SkipEqRegSkipsOnEqual : Prop :=
  (∀ w : Word, w &&& 0xF000 = 0x5000 → decodeWord w = .skipEqReg (fieldX w) (fieldY w)) ∧
  ∀ (x y : Reg) (s : State), ∃ t, exec (.skipEqReg x y) s = .next t ∧
    (s.reg x = s.reg y → t.pc = s.pc + 2) ∧ (s.reg x ≠ s.reg y → t.pc = s.pc) ∧ OnlyPc s t

/-- R81, R83: `skip-neq-reg` adds 2 to the advanced `pc` when `x[X] ≠ x[Y]`. -/
def Obligations.SkipNeqRegSkipsOnDifferent : Prop :=
  (∀ w : Word, w &&& 0xF000 = 0x9000 → decodeWord w = .skipNeqReg (fieldX w) (fieldY w)) ∧
  ∀ (x y : Reg) (s : State), ∃ t, exec (.skipNeqReg x y) s = .next t ∧
    (s.reg x ≠ s.reg y → t.pc = s.pc + 2) ∧ (s.reg x = s.reg y → t.pc = s.pc) ∧ OnlyPc s t

/-- R82: `jump-offset` writes `x[0] + NNN` to `pc`, with no mask, and nothing else. -/
def Obligations.JumpOffsetAddsV0 : Prop :=
  (∀ w : Word, w &&& 0xF000 = 0xB000 → decodeWord w = .jumpOffset (fieldNNN w)) ∧
  ∀ (nnn : Addr) (s : State), ∃ t, exec (.jumpOffset nnn) s = .next t ∧
    t.pc.toNat = (s.reg V0).toNat + nnn.toNat ∧ OnlyPc s t

/-- R75, R77: a `call` that completes, then a `return`, restores `pc` as it stood when the call executed
(the advanced `pc`), and `sp`. -/
def Obligations.CallThenReturnRestoresPc : Prop :=
  ∀ (nnn : Addr) (s t : State), exec (.call nnn) s = .next t →
    ∃ u, exec .ret t = .next u ∧ u.pc = s.pc ∧ u.sp = s.sp ∧
      u = { s with stack := t.stack }

/-! ### Loads, arithmetic and logic, random -/

/-- R85: `load-imm` writes `KK` to `x[X]`. -/
def Obligations.LoadImmWritesTheImmediate : Prop :=
  (∀ w : Word, w &&& 0xF000 = 0x6000 → decodeWord w = .loadImm (fieldX w) (fieldKK w)) ∧
  ∀ (x : Reg) (kk : Byte) (s : State), ∃ t, exec (.loadImm x kk) s = .next t ∧ t.reg x = kk ∧
    RegsBut [x] s t ∧ OnlyRegs s t

/-- R86: `add-imm` adds modulo 256 and writes no flag. -/
def Obligations.AddImmAddsWithoutFlag : Prop :=
  (∀ w : Word, w &&& 0xF000 = 0x7000 → decodeWord w = .addImm (fieldX w) (fieldKK w)) ∧
  ∀ (x : Reg) (kk : Byte) (s : State), ∃ t, exec (.addImm x kk) s = .next t ∧
    (t.reg x).toNat = ((s.reg x).toNat + kk.toNat) % 256 ∧ RegsBut [x] s t ∧ OnlyRegs s t

/-- R87: `load-reg` copies `x[Y]` to `x[X]`. -/
def Obligations.LoadRegCopies : Prop :=
  (∀ w : Word, w &&& 0xF00F = 0x8000 → decodeWord w = .loadReg (fieldX w) (fieldY w)) ∧
  ∀ (x y : Reg) (s : State), ∃ t, exec (.loadReg x y) s = .next t ∧ t.reg x = s.reg y ∧
    RegsBut [x] s t ∧ OnlyRegs s t

/-- R88: `or` is bitwise, and `VF` is left alone. -/
def Obligations.OrIsBitwise : Prop :=
  (∀ w : Word, w &&& 0xF00F = 0x8001 → decodeWord w = .orReg (fieldX w) (fieldY w)) ∧
  ∀ (x y : Reg) (s : State), ∃ t, exec (.orReg x y) s = .next t ∧
    (∀ k, (t.reg x).getLsbD k = ((s.reg x).getLsbD k || (s.reg y).getLsbD k)) ∧
    RegsBut [x] s t ∧ OnlyRegs s t

/-- R89: `and` is bitwise, and `VF` is left alone. -/
def Obligations.AndIsBitwise : Prop :=
  (∀ w : Word, w &&& 0xF00F = 0x8002 → decodeWord w = .andReg (fieldX w) (fieldY w)) ∧
  ∀ (x y : Reg) (s : State), ∃ t, exec (.andReg x y) s = .next t ∧
    (∀ k, (t.reg x).getLsbD k = ((s.reg x).getLsbD k && (s.reg y).getLsbD k)) ∧
    RegsBut [x] s t ∧ OnlyRegs s t

/-- R90: `xor` is bitwise, and `VF` is left alone. -/
def Obligations.XorIsBitwise : Prop :=
  (∀ w : Word, w &&& 0xF00F = 0x8003 → decodeWord w = .xorReg (fieldX w) (fieldY w)) ∧
  ∀ (x y : Reg) (s : State), ∃ t, exec (.xorReg x y) s = .next t ∧
    (∀ k, (t.reg x).getLsbD k = ((s.reg x).getLsbD k ^^ (s.reg y).getLsbD k)) ∧
    RegsBut [x] s t ∧ OnlyRegs s t

/-- R91: `add-reg` forms the sum of the operands as they are before, writes the carry to `VF`, then the
sum modulo 256 to `x[X]`, which wins when `X` is 15. -/
def Obligations.AddRegAddsWithCarry : Prop :=
  (∀ w : Word, w &&& 0xF00F = 0x8004 → decodeWord w = .addReg (fieldX w) (fieldY w)) ∧
  ∀ (x y : Reg) (s : State), ∃ t, exec (.addReg x y) s = .next t ∧
    (t.reg x).toNat = ((s.reg x).toNat + (s.reg y).toNat) % 256 ∧
    (x ≠ VF → t.reg VF = if (s.reg x).toNat + (s.reg y).toNat > 255 then 1 else 0) ∧
    RegsBut [x, VF] s t ∧ OnlyRegs s t

/-- R92, R97: `sub` writes the strict comparison to `VF`, then the difference modulo 256 of the operands
as that write left them (decision D13, as in the next three; log entry 11). -/
def Obligations.SubSubtractsAfterTheFlag : Prop :=
  (∀ w : Word, w &&& 0xF00F = 0x8005 → decodeWord w = .sub (fieldX w) (fieldY w)) ∧
  ∀ (x y : Reg) (s : State) (f : Byte),
    f = (if (s.reg x).toNat > (s.reg y).toNat then 1 else 0) →
    ∃ t, exec (.sub x y) s = .next t ∧
      (t.reg x).toNat = ((regAfterFlag s f x).toNat + 256 - (regAfterFlag s f y).toNat) % 256 ∧
      (x ≠ VF → t.reg VF = f) ∧ RegsBut [x, VF] s t ∧ OnlyRegs s t

/-- R93, R97: `shr` writes bit 0 to `VF`, then shifts `x[X]`, as that write left it, right by one. -/
def Obligations.ShrShiftsAfterTheFlag : Prop :=
  (∀ w : Word, w &&& 0xF00F = 0x8006 → decodeWord w = .shr (fieldX w)) ∧
  ∀ (x : Reg) (s : State) (f : Byte), f = (if (s.reg x).getLsbD 0 then 1 else 0) →
    ∃ t, exec (.shr x) s = .next t ∧ (t.reg x).toNat = (regAfterFlag s f x).toNat / 2 ∧
      (x ≠ VF → t.reg VF = f) ∧ RegsBut [x, VF] s t ∧ OnlyRegs s t

/-- R94, R97: `subn` writes the strict comparison to `VF`, then the difference modulo 256 the other way
round, of the operands as that write left them. -/
def Obligations.SubnSubtractsAfterTheFlag : Prop :=
  (∀ w : Word, w &&& 0xF00F = 0x8007 → decodeWord w = .subn (fieldX w) (fieldY w)) ∧
  ∀ (x y : Reg) (s : State) (f : Byte),
    f = (if (s.reg y).toNat > (s.reg x).toNat then 1 else 0) →
    ∃ t, exec (.subn x y) s = .next t ∧
      (t.reg x).toNat = ((regAfterFlag s f y).toNat + 256 - (regAfterFlag s f x).toNat) % 256 ∧
      (x ≠ VF → t.reg VF = f) ∧ RegsBut [x, VF] s t ∧ OnlyRegs s t

/-- R95, R97: `shl` writes bit 7 to `VF`, then shifts `x[X]`, as that write left it, left by one modulo
256. -/
def Obligations.ShlShiftsAfterTheFlag : Prop :=
  (∀ w : Word, w &&& 0xF00F = 0x800E → decodeWord w = .shl (fieldX w)) ∧
  ∀ (x : Reg) (s : State) (f : Byte), f = (if (s.reg x).getLsbD 7 then 1 else 0) →
    ∃ t, exec (.shl x) s = .next t ∧ (t.reg x).toNat = 2 * (regAfterFlag s f x).toNat % 256 ∧
      (x ≠ VF → t.reg VF = f) ∧ RegsBut [x, VF] s t ∧ OnlyRegs s t

/-- R96: `rand` writes the random byte of the cycle and `KK`, for every value of that byte. -/
def Obligations.RandMasksTheRandomByte : Prop :=
  (∀ w : Word, w &&& 0xF000 = 0xC000 → decodeWord w = .rand (fieldX w) (fieldKK w)) ∧
  ∀ (x : Reg) (kk r : Byte) (s : State), s.rnd = r →
    ∃ t, exec (.rand x kk) s = .next t ∧
      (∀ k, (t.reg x).getLsbD k = (r.getLsbD k && kk.getLsbD k)) ∧ RegsBut [x] s t ∧ OnlyRegs s t

/-! ### Index register and memory -/

/-- R100: `load-index` writes `NNN` to `I`. -/
def Obligations.LoadIndexWritesTheAddress : Prop :=
  (∀ w : Word, w &&& 0xF000 = 0xA000 → decodeWord w = .loadIndex (fieldNNN w)) ∧
  ∀ (nnn : Addr) (s : State), ∃ t, exec (.loadIndex nnn) s = .next t ∧ t.i.toNat = nnn.toNat ∧
    OnlyIndex s t

/-- R101: `add-index` adds modulo 65536, with no flag and no 12-bit mask (the modulus is an
inference the spec marks as its own: the width of `I`). -/
def Obligations.AddIndexAddsModulo65536 : Prop :=
  (∀ w : Word, w &&& 0xF0FF = 0xF01E → decodeWord w = .addIndex (fieldX w)) ∧
  ∀ (x : Reg) (s : State), ∃ t, exec (.addIndex x) s = .next t ∧
    t.i.toNat = (s.i.toNat + (s.reg x).toNat) % 65536 ∧ OnlyIndex s t

/-- R102: `font-char` writes `0x050 + 5 * x[X]` to `I`, using the whole byte. -/
def Obligations.FontCharPointsAtTheGlyph : Prop :=
  (∀ w : Word, w &&& 0xF0FF = 0xF029 → decodeWord w = .fontChar (fieldX w)) ∧
  ∀ (x : Reg) (s : State), ∃ t, exec (.fontChar x) s = .next t ∧
    t.i.toNat = 0x050 + 5 * (s.reg x).toNat ∧ OnlyIndex s t

/-- R103: `bcd` stores the three decimal digits at `I`, or faults before any write (decision D5, as in
the next two; log entry 10). -/
def Obligations.BcdStoresTheDigits : Prop :=
  (∀ w : Word, w &&& 0xF0FF = 0xF033 → decodeWord w = .bcd (fieldX w)) ∧
  ∀ (x : Reg) (s : State),
    (s.i.toNat + 2 > 4095 → exec (.bcd x) s = .fault .memOutOfBounds) ∧
    (s.i.toNat + 2 ≤ 4095 → ∃ t, exec (.bcd x) s = .next t ∧
      (Memory.read t.mem s.i.toNat).toNat = (s.reg x).toNat / 100 ∧
      (Memory.read t.mem (s.i.toNat + 1)).toNat = (s.reg x).toNat / 10 % 10 ∧
      (Memory.read t.mem (s.i.toNat + 2)).toNat = (s.reg x).toNat % 10 ∧
      (∀ a, a < s.i.toNat ∨ a > s.i.toNat + 2 → Memory.read t.mem a = Memory.read s.mem a) ∧
      OnlyMemory s t)

/-- R104: `store-regs` stores `x[0]` to `x[X]` at `I` and leaves `I`, or faults before any write. -/
def Obligations.StoreRegsStoresTheBlock : Prop :=
  (∀ w : Word, w &&& 0xF0FF = 0xF055 → decodeWord w = .storeRegs (fieldX w)) ∧
  ∀ (x : Reg) (s : State),
    (s.i.toNat + x.val > 4095 → exec (.storeRegs x) s = .fault .memOutOfBounds) ∧
    (s.i.toNat + x.val ≤ 4095 → ∃ t, exec (.storeRegs x) s = .next t ∧
      (∀ r : Reg, r ≤ x → Memory.read t.mem (s.i.toNat + r.val) = s.reg r) ∧
      (∀ a, a < s.i.toNat ∨ a > s.i.toNat + x.val → Memory.read t.mem a = Memory.read s.mem a) ∧
      OnlyMemory s t)

/-- R105: `load-regs` loads `x[0]` to `x[X]` from `I`, leaves `I` and the higher registers, or faults
before any write. -/
def Obligations.LoadRegsLoadsTheBlock : Prop :=
  (∀ w : Word, w &&& 0xF0FF = 0xF065 → decodeWord w = .loadRegs (fieldX w)) ∧
  ∀ (x : Reg) (s : State),
    (s.i.toNat + x.val > 4095 → exec (.loadRegs x) s = .fault .memOutOfBounds) ∧
    (s.i.toNat + x.val ≤ 4095 → ∃ t, exec (.loadRegs x) s = .next t ∧
      (∀ r : Reg, r ≤ x → t.reg r = Memory.read s.mem (s.i.toNat + r.val)) ∧
      (∀ r : Reg, r > x → t.reg r = s.reg r) ∧ OnlyRegs s t)

/-- R104, R105: a `store-regs` that completes, then any change of the registers, then `load-regs` of the
same `X` restores registers 0 to `X`. -/
def Obligations.StoreThenLoadRestoresRegisters : Prop :=
  ∀ (x : Reg) (s t u : State), exec (.storeRegs x) s = .next t → u = { t with x := u.x } →
    ∃ v, exec (.loadRegs x) u = .next v ∧ (∀ r : Reg, r ≤ x → v.reg r = s.reg r) ∧
      ∀ r : Reg, r > x → v.reg r = u.reg r

/-! ### Keypad and timers -/

/-- R110, R83: `skip-key` skips when the key is pressed, or faults on a number that is no key (decision
D8, as in the next; log entry 10). -/
def Obligations.SkipKeySkipsWhenPressed : Prop :=
  (∀ w : Word, w &&& 0xF00F = 0xE00E → decodeWord w = .skipKey (fieldX w)) ∧
  ∀ (x : Reg) (s : State),
    ((s.reg x).toNat > 15 → exec (.skipKey x) s = .fault .keyIndexOutOfRange) ∧
    ((s.reg x).toNat ≤ 15 → ∃ t, exec (.skipKey x) s = .next t ∧
      (s.key.getLsbD (s.reg x).toNat = true → t.pc = s.pc + 2) ∧
      (s.key.getLsbD (s.reg x).toNat = false → t.pc = s.pc) ∧ OnlyPc s t)

/-- R111, R83: `skip-notkey` skips when the key is not pressed, or faults on a number that is no key. -/
def Obligations.SkipNotKeySkipsWhenReleased : Prop :=
  (∀ w : Word, w &&& 0xF00F = 0xE001 → decodeWord w = .skipNotKey (fieldX w)) ∧
  ∀ (x : Reg) (s : State),
    ((s.reg x).toNat > 15 → exec (.skipNotKey x) s = .fault .keyIndexOutOfRange) ∧
    ((s.reg x).toNat ≤ 15 → ∃ t, exec (.skipNotKey x) s = .next t ∧
      (s.key.getLsbD (s.reg x).toNat = false → t.pc = s.pc + 2) ∧
      (s.key.getLsbD (s.reg x).toNat = true → t.pc = s.pc) ∧ OnlyPc s t)

/-- R112: `read-delay` copies `dt`, as it is before the tick of its own cycle, which then ticks `dt`. -/
def Obligations.ReadDelayReadsBeforeTheTick : Prop :=
  (∀ w : Word, w &&& 0xF0FF = 0xF007 → decodeWord w = .readDelay (fieldX w)) ∧
  (∀ (x : Reg) (s : State), ∃ t, exec (.readDelay x) s = .next t ∧ t.reg x = s.dt ∧
    RegsBut [x] s t ∧ OnlyRegs s t) ∧
  ∀ (x : Reg) (w : Word) (s : State), s.faultCode = 0 → s.fetchWord = some w →
    decodeWord w = .readDelay x →
    ∃ t, cycle s = .next t ∧ t.reg x = s.dt ∧ t.dt.toNat = s.dt.toNat - 1

/-- R113: `wait-key` with no key pressed goes back to its own address, and its cycle leaves `pc` as it
was and ticks the timers; with a key pressed it loads the least pressed key's number. -/
def Obligations.WaitKeyWaitsOrLoadsTheLeastKey : Prop :=
  (∀ w : Word, w &&& 0xF0FF = 0xF00A → decodeWord w = .waitKey (fieldX w)) ∧
  (∀ (x : Reg) (s : State),
    (s.key = 0 → ∃ t, exec (.waitKey x) s = .next t ∧ t.pc = s.pc - 2 ∧ OnlyPc s t) ∧
    (s.key ≠ 0 → ∃ t, exec (.waitKey x) s = .next t ∧ (t.reg x).toNat ≤ 15 ∧
      s.key.getLsbD (t.reg x).toNat = true ∧
      (∀ k, k < (t.reg x).toNat → s.key.getLsbD k = false) ∧ RegsBut [x] s t ∧ OnlyRegs s t)) ∧
  ∀ (x : Reg) (w : Word) (s : State), s.faultCode = 0 → s.fetchWord = some w →
    decodeWord w = .waitKey x → s.key = 0 →
    ∃ t, cycle s = .next t ∧ t = { s with ir := w, dt := t.dt, st := t.st } ∧
      t.dt.toNat = s.dt.toNat - 1 ∧ t.st.toNat = s.st.toNat - 1

/-- R114: `set-delay` writes `x[X]` to `dt`, and the tick of its own cycle follows (what `dt` is at the
end of the cycle is an inference the spec marks as its own; so in the next). -/
def Obligations.SetDelayWritesThenTicks : Prop :=
  (∀ w : Word, w &&& 0xF0FF = 0xF015 → decodeWord w = .setDelay (fieldX w)) ∧
  (∀ (x : Reg) (s : State), ∃ t, exec (.setDelay x) s = .next t ∧ t.dt = s.reg x ∧
    t = { s with dt := t.dt } ∧ SameMemory s t) ∧
  ∀ (x : Reg) (w : Word) (s : State), s.faultCode = 0 → s.fetchWord = some w →
    decodeWord w = .setDelay x → ∃ t, cycle s = .next t ∧ t.dt.toNat = (s.reg x).toNat - 1

/-- R115: `set-sound` writes `x[X]` to `st`, and the tick of its own cycle follows. -/
def Obligations.SetSoundWritesThenTicks : Prop :=
  (∀ w : Word, w &&& 0xF0FF = 0xF018 → decodeWord w = .setSound (fieldX w)) ∧
  (∀ (x : Reg) (s : State), ∃ t, exec (.setSound x) s = .next t ∧ t.st = s.reg x ∧
    t = { s with st := t.st } ∧ SameMemory s t) ∧
  ∀ (x : Reg) (w : Word) (s : State), s.faultCode = 0 → s.fetchWord = some w →
    decodeWord w = .setSound x → ∃ t, cycle s = .next t ∧ t.st.toNat = (s.reg x).toNat - 1

/-! ### The no-op -/

/-- R65: a word that matches no row is a no-op; it changes nothing, and its whole cycle only writes
`ir`, advances `pc` and ticks the timers. -/
def Obligations.UnmappedWordDoesNothing : Prop :=
  (∀ w : Word, (∀ row ∈ opcodeRows, w &&& row.mask ≠ row.pattern) → decodeWord w = .nopUnmapped w) ∧
  (∀ (w : Word) (s : State), ∃ t, exec (.nopUnmapped w) s = .next t ∧ t = s) ∧
  ∀ (v w : Word) (s : State), s.faultCode = 0 → s.fetchWord = some w →
    decodeWord w = .nopUnmapped v →
    ∃ t, cycle s = .next t ∧ t.pc.toNat = s.pc.toNat + 2 ∧ t.dt.toNat = s.dt.toNat - 1 ∧
      t.st.toNat = s.st.toNat - 1 ∧ t = { s with ir := w, pc := t.pc, dt := t.dt, st := t.st }

/-! ### Encoding -/

/-- R59: every word is the operation of a row exactly when it matches the row, the rows are pairwise
disjoint (an inference the spec marks as its own), and a word that matches none is the no-op. -/
def Obligations.OpcodeMapDecidesTheOperation : Prop :=
  (∀ w : Word, ∀ row ∈ opcodeRows, w &&& row.mask = row.pattern ↔ opcodeRow (decodeWord w) = row) ∧
  (∀ w : Word, ∀ row ∈ opcodeRows, ∀ row' ∈ opcodeRows,
    w &&& row.mask = row.pattern → w &&& row'.mask = row'.pattern → row = row') ∧
  ∀ w : Word, (∀ row ∈ opcodeRows, w &&& row.mask ≠ row.pattern) ↔ decodeWord w = .nopUnmapped w

/-- R55 (an inference the spec marks as its own): the bits the decoder ignores change neither the
operation nor its operands. -/
def Obligations.IgnoredBitsAreIgnored : Prop :=
  ∀ w v : Word,
    ((w &&& 0xF00F = 0x0000 ∨ w &&& 0xF00F = 0x000E) → v &&& 0xF00F = w &&& 0xF00F →
      decodeWord v = decodeWord w) ∧
    ((w &&& 0xF000 = 0x5000 ∨ w &&& 0xF000 = 0x9000) → v &&& 0xFFF0 = w &&& 0xFFF0 →
      decodeWord v = decodeWord w) ∧
    ((w &&& 0xF00F = 0x8006 ∨ w &&& 0xF00F = 0x800E) → v &&& 0xFF0F = w &&& 0xFF0F →
      decodeWord v = decodeWord w) ∧
    ((w &&& 0xF00F = 0xE00E ∨ w &&& 0xF00F = 0xE001) → v &&& 0xFF0F = w &&& 0xFF0F →
      decodeWord v = decodeWord w)

/-- R48, R54: every word decodes to a well-formed instruction, and to the no-op exactly when it is one
of the unmapped words that R54 lists. -/
def Obligations.DecodeIsTotalAndWellFormed : Prop :=
  ∀ w : Word, (decodeWord w).wellFormed = true ∧
    ((∃ v, decodeWord w = .nopUnmapped v) ↔ unmappedWord w = true)

/-- R45, R46, R59: decode and encode agree on every well-formed instruction, with every operand at every
value, as a word and as the two bytes in front of any others. -/
def Obligations.DecodeOfEncode : Prop :=
  ∀ i : Instr, i.wellFormed = true → decodeWord (encodeWord i) = i ∧
    (encode i).length = 2 ∧ ∀ rest, decode (encode i ++ rest) = .ok (i, rest)

/-- R59, with the words of 95_test_vectors.md section 2.7: some words decode as the spec says. -/
def Obligations.SampleWordsDecode : Prop :=
  decodeWord 0x0000 = .clearScreen ∧ decodeWord 0x012E = .ret ∧ decodeWord 0x2300 = .call 0x300 ∧
  decodeWord 0x5AB7 = .skipEqReg 10 11 ∧ decodeWord 0x6A5C = .loadImm 10 0x5C ∧
  decodeWord 0x8FFE = .shl 15 ∧ decodeWord 0x800F = .nopUnmapped 0x800F ∧
  decodeWord 0xD125 = .draw 1 2 5 ∧ decodeWord 0xE0F1 = .skipNotKey 0 ∧
  decodeWord 0xF107 = .readDelay 1 ∧ decodeWord 0xF233 = .bcd 2

/-! ### The cycle and the step -/

/-- R60 to R63, R66, R67, R8: the step from the state `u` after the host's turn. Halted, it is `u`. With `pc`
above 4094 it is `u` with the latch set for the fetch fault. When the bytes at `pc` decode to an
instruction, it is that instruction executed with `ir` and `pc` as the fetch leaves them, then the tick of
the timers; a fault of it is the latch on `u`. -/
def Obligations.StepRunsTheDecodedInstruction : Prop :=
  ∀ s u : State, s.hostTurn = u →
    (u.faultCode ≠ 0 → step s = .next u) ∧
    (u.faultCode = 0 → u.pc.toNat > 4094 →
      step s = .next { u with faultCode := 1, faultPc := u.pc }) ∧
    ∀ (i : Instr) (rest : List Byte), u.faultCode = 0 → u.pc.toNat ≤ 4094 →
      decode (Memory.read u.mem u.pc.toNat :: Memory.read u.mem (u.pc.toNat + 1) :: rest) =
        .ok (i, rest) →
      ∃ w : Word, w.toNat = (Memory.read u.mem u.pc.toNat).toNat * 256 +
          (Memory.read u.mem (u.pc.toNat + 1)).toNat ∧ decodeWord w = i ∧ i.wellFormed = true ∧
        (∀ t, exec i { u with ir := w, pc := u.pc + 2 } = .next t → step s = .next t.tick) ∧
        (∀ f, exec i { u with ir := w, pc := u.pc + 2 } = .fault f → step s = .next (u.takeFault f))

/-- R64: after an instruction that completes, each timer is one less, and a timer at 0 stays 0; the tick
sees what the instruction of the same cycle left and changes nothing but the timers. -/
def Obligations.EveryCompletedCycleTicks : Prop :=
  ∀ (s t : State) (w : Word), s.faultCode = 0 → s.fetchWord = some w →
    exec (decodeWord w) (s.advance w) = .next t →
    ∃ u, cycle s = .next u ∧ u.dt.toNat = t.dt.toNat - 1 ∧ u.st.toNat = t.st.toNat - 1 ∧
      u = { t with dt := u.dt, st := u.st }

/-- R8, R54: a step always answers a next state: nothing is refused, and a fault is the latch. -/
def Obligations.StepAlwaysAnswersNext : Prop :=
  ∀ s : State, ∃ t, step s = .next t

/-! ### Faults -/

/-- R121, R123: executing an instruction raises a fault exactly under the condition of R121's table
(that a meaning answers the fault, which the cycle latches, is the model's form: log entry 9). -/
def Obligations.FaultsExactlyWhenR121Says : Prop :=
  ∀ (i : Instr) (s : State) (f : Fault), exec i s = .fault f ↔ RaisesFault i s f

/-- R66, R124 (decisions D2, D21; log entry 10): a faulting cycle changes nothing but the latch, which
records the code and the address of the cycle's start; an unfetchable `pc` is such a fault, and the
fetch comes before all else. -/
def Obligations.FaultsArePrecise : Prop :=
  ∀ s : State, s.faultCode = 0 →
    (s.pc.toNat > 4094 → cycle s = .next { s with faultCode := 1, faultPc := s.pc }) ∧
    ∀ (w : Word) (f : Fault), s.fetchWord = some w → exec (decodeWord w) (s.advance w) = .fault f →
      ∃ c : BitVec 3, cycle s = .next { s with faultCode := c, faultPc := s.pc } ∧ c ≠ 0 ∧
        (f = .stackOverflow → c = 2) ∧ (f = .stackUnderflow → c = 3) ∧ (f = .memOutOfBounds → c = 4) ∧
        (f = .drawOutOfGrid → c = 5) ∧ (f = .keyIndexOutOfRange → c = 6)

/-- R67: a halted core does nothing in a cycle, and stays halted through any number of steps in which
the host, scripted or free, does not reset, with the latch as it first was; only what the host writes
itself changes. -/
def Obligations.HaltedUntilReset : Prop :=
  ∀ s : State, s.faultCode ≠ 0 → cycle s = .next s ∧
    ∀ n : Nat, NoResetFor n s →
      ∃ t, Host.Core.run Sys2Proof.core n s = .next t ∧
        t = { s with dt := t.dt, st := t.st, key := t.key, rnd := t.rnd, script := t.script,
                     turn := t.turn }

/-! ### Invariants and whole-machine rules -/

/-- The state after reset (R24) meets the invariant. Its canonical form of memory is the model's (log entry
15, DESIGN CHOICE), and its bounds are R27's and R13's, which the spec marks as its own inferences, or
follow from them. -/
def Obligations.InvariantAtReset : Prop := Inv State.reset

/-- Every step keeps the invariant, from every state that meets it, whatever the host does in its turn. The
latch clauses are R20, R66 and R67. The canonical form of memory is the model's (log entry 15, DESIGN
CHOICE); the bounds on `pc` and the fault code are R13's and R27's, which the spec marks as its own
inferences, and the bound on a stack entry follows from R61, R62 and R77. -/
def Obligations.InvariantKeptByStep : Prop :=
  ∀ s t : State, Inv s → step s = .next t → Inv t

/-- R27 (an inference the spec marks as its own): in every state reached from reset, under any script of the
host, `sp` is at most 16, `pc` at most 0x10FE and the fault code at most 6; and a halted state's latch
holds the address it halted at (R66, R67). That memory is in canonical form there is the model's (log
entry 15, DESIGN CHOICE). -/
def Obligations.ReachableBounds : Prop :=
  ∀ s : State, Reachable s → s.sp.val ≤ 16 ∧ s.pc.toNat ≤ 0x10FE ∧ s.faultCode.toNat ≤ 6 ∧
    (s.halted → s.faultPc = s.pc) ∧ Memory.wf s.mem

/-- R30, R37: only `bcd` and `store-regs` change memory. -/
def Obligations.OnlyBcdAndStoreRegsWriteMemory : Prop :=
  ∀ (i : Instr) (s t : State), exec i s = .next t → (∀ x, i ≠ .bcd x) → (∀ x, i ≠ .storeRegs x) →
    SameMemory s t

/-- R12, R14, R15, R17: only `clear-screen` and `draw` change the screen, only `call` and `return` the
stack and its pointer, only `load-index`, `add-index` and `font-char` change `I`, only `set-delay` the
delay timer, and only `set-sound` the sound timer. -/
def Obligations.SpecialStateHasItsOwnWriters : Prop :=
  ∀ (i : Instr) (s t : State), exec i s = .next t →
    (i ≠ .clearScreen → (∀ x y n, i ≠ .draw x y n) → SameScreen s t) ∧
    ((∀ nnn, i ≠ .call nnn) → i ≠ .ret → t.sp = s.sp ∧ ∀ j, t.stackEntry j = s.stackEntry j) ∧
    ((∀ nnn, i ≠ .loadIndex nnn) → (∀ x, i ≠ .addIndex x) → (∀ x, i ≠ .fontChar x) → t.i = s.i) ∧
    ((∀ x, i ≠ .setDelay x) → t.dt = s.dt) ∧ ((∀ x, i ≠ .setSound x) → t.st = s.st)

/-- R10, R11: an instruction changes no register but its destinations and, for the six instructions that
write a flag, `VF`, which then holds 1 or 0 as the flag's condition says unless it is the destination.
-/
def Obligations.RegistersAndTheFlag : Prop :=
  ∀ (i : Instr) (s t : State), exec i s = .next t →
    (∀ r : Reg, r ∉ destRegs i → (r = VF → sideFlag s i = none) → t.reg r = s.reg r) ∧
    ∀ c : Prop, sideFlag s i = some c → VF ∉ destRegs i →
      (c → t.reg VF = 1) ∧ (¬ c → t.reg VF = 0)

/-- R16, R21: only the three keypad instructions depend on the keypad, and only `rand` on the random
byte; R15, R18: none depends on `st` or `ir`. -/
def Obligations.InputsAndScratchAreNotRead : Prop :=
  ∀ (i : Instr) (s : State),
    (readsKey i = false → ∀ k : Word,
      exec i { s with key := k } = mapNext (fun t => { t with key := k }) (exec i s)) ∧
    ((∀ x kk, i ≠ .rand x kk) → ∀ b : Byte,
      exec i { s with rnd := b } = mapNext (fun t => { t with rnd := b }) (exec i s)) ∧
    (∀ w : Word, exec i { s with ir := w } = mapNext (fun t => { t with ir := w }) (exec i s)) ∧
    ((∀ x, i ≠ .setSound x) → ∀ b : Byte,
      exec i { s with st := b } = mapNext (fun t => { t with st := b }) (exec i s))

/-- R145 (the parking convention, decision D22; log entry 23): parked at `a`, a cycle changes nothing
but `ir` and the timers, which tick, and the machine is still parked. -/
def Obligations.ParkedStaysParked : Prop :=
  ∀ (a : Addr) (s : State), ParkedAt a s → ∃ t, cycle s = .next t ∧ ParkedAt a t ∧
    t = { s with ir := t.ir, dt := t.dt, st := t.st } ∧ t.dt.toNat = s.dt.toNat - 1 ∧
    t.st.toNat = s.st.toNat - 1

/-! ### Reset and the host -/

/-- R24, R26, R31: the state after reset, memory byte by byte: the font at 0x050 to 0x09F, else 0. -/
def Obligations.ResetState : Prop :=
  (∀ r : Reg, State.reset.reg r = 0) ∧ State.reset.i = 0 ∧ State.reset.pc = 0x0200 ∧
  (∀ j, State.reset.stackEntry j = 0) ∧ State.reset.sp.val = 0 ∧ State.reset.dt = 0 ∧
  State.reset.st = 0 ∧ State.reset.ir = 0 ∧ (∀ r c, Frame.cell State.reset.fb r c = false) ∧
  State.reset.key = 0 ∧ State.reset.faultCode = 0 ∧ State.reset.faultPc = 0 ∧
  (∀ a, a < 0x050 ∨ 0x09F < a → Memory.read State.reset.mem a = 0) ∧
  (List.range 80).map (fun k => Memory.read State.reset.mem (0x050 + k)) =
    [0xF0, 0x90, 0x90, 0x90, 0xF0, 0x20, 0x60, 0x20, 0x20, 0x70] ++
    [0xF0, 0x10, 0xF0, 0x80, 0xF0, 0xF0, 0x10, 0xF0, 0x10, 0xF0] ++
    [0x90, 0x90, 0xF0, 0x10, 0x10, 0xF0, 0x80, 0xF0, 0x10, 0xF0] ++
    [0xF0, 0x80, 0xF0, 0x90, 0xF0, 0xF0, 0x10, 0x20, 0x40, 0x40] ++
    [0xF0, 0x90, 0xF0, 0x90, 0xF0, 0xF0, 0x90, 0xF0, 0x10, 0xF0] ++
    [0xF0, 0x90, 0xF0, 0x90, 0x90, 0xE0, 0x90, 0xE0, 0x90, 0xE0] ++
    [0xF0, 0x80, 0x80, 0x80, 0xF0, 0xE0, 0x90, 0x90, 0x90, 0xE0] ++
    [0xF0, 0x80, 0xF0, 0x80, 0xF0, 0xF0, 0x80, 0xF0, 0x80, 0x80]

/-- R44, R125, R135, R137, R139: reset and program load leave the reset state but for the image, which
stands from 0x200 upward as far as memory goes, excess bytes dropped; and the host's turn that resets is
this, whatever the state before (a halted one too), with the inputs of the turn presented and a timer
written if the turn says so, else 0. That reset and load are one move is the model's form (log entry 18). -/
def Obligations.BootLoadsTheProgram : Prop :=
  ∀ (s : State) (image : List Byte),
    (∀ j, j < image.length → 0x200 + j ≤ 0xFFF →
      Memory.read (s.boot image).mem (0x200 + j) = image.getD j 0) ∧
    (∀ a, a < 0x200 ∨ 0x200 + image.length ≤ a ∨ 0xFFF < a →
      Memory.read (s.boot image).mem a = Memory.read State.reset.mem a) ∧
    s.boot image =
      { State.reset with mem := (s.boot image).mem, script := s.script, turn := s.turn } ∧
    (s.nextTurn.boot = some image →
      s.hostTurn = { s.boot image with
        dt := s.hostTurn.dt, st := s.hostTurn.st, key := s.nextTurn.key, rnd := s.nextTurn.rnd,
        script := s.script.tail, turn := s.hostTurn.turn } ∧
      (s.nextTurn.delay = none → s.hostTurn.dt = 0) ∧
      (∀ v, s.nextTurn.delay = some v → s.hostTurn.dt = v) ∧
      (s.nextTurn.sound = none → s.hostTurn.st = 0) ∧
      ∀ v, s.nextTurn.sound = some v → s.hostTurn.st = v)

/-- R139: in a turn without a reset the host presents the inputs and may write the two timers, and
touches nothing else of the machine; a timer it does not write is as it was. -/
def Obligations.HostTouchesOnlyInputsAndTimers : Prop :=
  ∀ s : State, s.nextTurn.boot = none →
    s.hostTurn = { s with
      dt := s.hostTurn.dt, st := s.hostTurn.st, key := s.nextTurn.key, rnd := s.nextTurn.rnd,
      script := s.script.tail, turn := s.hostTurn.turn } ∧
    (s.nextTurn.delay = none → s.hostTurn.dt = s.dt) ∧
    (∀ v, s.nextTurn.delay = some v → s.hostTurn.dt = v) ∧
    (s.nextTurn.sound = none → s.hostTurn.st = s.st) ∧
    ∀ v, s.nextTurn.sound = some v → s.hostTurn.st = v
end

