-- ==== Sys2Proof/Laws/Decode.lean ====
section
/-!
SUPPORT. The fields of a word as numbers, the bytes of a word, and the decoder on bytes.
-/

namespace Sys2Proof

theorem fieldOP_toNat (w : Word) : (fieldOP w).toNat = w.toNat / 0x1000 := by
  simp only [fieldOP, BitVec.extractLsb'_toNat, Nat.shiftRight_eq_div_pow]; omega

theorem fieldX_val (w : Word) : (fieldX w).val = w.toNat / 0x100 % 0x10 := by
  simp only [fieldX, BitVec.extractLsb'_toNat, BitVec.val_toFin, Nat.shiftRight_eq_div_pow]

theorem fieldY_val (w : Word) : (fieldY w).val = w.toNat / 0x10 % 0x10 := by
  simp only [fieldY, BitVec.extractLsb'_toNat, BitVec.val_toFin, Nat.shiftRight_eq_div_pow]

theorem fieldN_toNat (w : Word) : (fieldN w).toNat = w.toNat % 0x10 := by
  simp only [fieldN, BitVec.extractLsb'_toNat, Nat.shiftRight_zero]

theorem fieldKK_toNat (w : Word) : (fieldKK w).toNat = w.toNat % 0x100 := by
  simp only [fieldKK, BitVec.extractLsb'_toNat, Nat.shiftRight_zero]

theorem fieldNNN_toNat (w : Word) : (fieldNNN w).toNat = w.toNat % 0x1000 := by
  simp only [fieldNNN, BitVec.extractLsb'_toNat, Nat.shiftRight_zero]

/-! ### Masks as fields: what a row of the opcode map looks at (R59) -/

/-- Mask 0xF000 looks at `OP`. -/
theorem and_F000_eq_iff (w p : Word) : w &&& 0xF000 = p &&& 0xF000 ↔ fieldOP w = fieldOP p := by
  constructor
  · intro h
    refine BitVec.eq_of_getLsbD_eq fun k hk => ?_
    have := congrArg (fun v : Word => v.getLsbD (12 + k)) h
    interval_cases k <;> simpa [fieldOP] using this
  · intro h
    refine BitVec.eq_of_getLsbD_eq fun k hk => ?_
    have h1 := congrArg (fun v : Nibble => v.getLsbD (k - 12)) h
    clear h
    interval_cases k <;> simp_all [fieldOP]

/-- Mask 0xF00F looks at `OP` and `N`. -/
theorem and_F00F_eq_iff (w p : Word) :
    w &&& 0xF00F = p &&& 0xF00F ↔ fieldOP w = fieldOP p ∧ fieldN w = fieldN p := by
  constructor
  · intro h
    refine ⟨BitVec.eq_of_getLsbD_eq fun k hk => ?_, BitVec.eq_of_getLsbD_eq fun k hk => ?_⟩
    · have := congrArg (fun v : Word => v.getLsbD (12 + k)) h
      interval_cases k <;> simpa [fieldOP] using this
    · have := congrArg (fun v : Word => v.getLsbD k) h
      interval_cases k <;> simpa [fieldN] using this
  · rintro ⟨h, h'⟩
    refine BitVec.eq_of_getLsbD_eq fun k hk => ?_
    have h1 := congrArg (fun v : Nibble => v.getLsbD (k - 12)) h
    have h2 := congrArg (fun v : Nibble => v.getLsbD k) h'
    clear h h'
    interval_cases k <;> simp_all [fieldOP, fieldN]

/-- Mask 0xF0FF looks at `OP` and `KK`. -/
theorem and_F0FF_eq_iff (w p : Word) :
    w &&& 0xF0FF = p &&& 0xF0FF ↔ fieldOP w = fieldOP p ∧ fieldKK w = fieldKK p := by
  constructor
  · intro h
    refine ⟨BitVec.eq_of_getLsbD_eq fun k hk => ?_, BitVec.eq_of_getLsbD_eq fun k hk => ?_⟩
    · have := congrArg (fun v : Word => v.getLsbD (12 + k)) h
      interval_cases k <;> simpa [fieldOP] using this
    · have := congrArg (fun v : Word => v.getLsbD k) h
      interval_cases k <;> simpa [fieldKK] using this
  · rintro ⟨h, h'⟩
    refine BitVec.eq_of_getLsbD_eq fun k hk => ?_
    have h1 := congrArg (fun v : Nibble => v.getLsbD (k - 12)) h
    have h2 := congrArg (fun v : Byte => v.getLsbD k) h'
    clear h h'
    interval_cases k <;> simp_all [fieldOP, fieldKK]

/-- A word that matches a row of mask 0xF000 has the row's `OP`. -/
theorem op_of_match (w p : Word) (h : w &&& 0xF000 = p) (hp : p &&& 0xF000 = p) :
    fieldOP w = fieldOP p :=
  (and_F000_eq_iff w p).1 (h.trans hp.symm)

/-- A word that matches a row of mask 0xF00F has the row's `OP` and `N`. -/
theorem op_n_of_match (w p : Word) (h : w &&& 0xF00F = p) (hp : p &&& 0xF00F = p) :
    fieldOP w = fieldOP p ∧ fieldN w = fieldN p :=
  (and_F00F_eq_iff w p).1 (h.trans hp.symm)

/-- A word that matches a row of mask 0xF0FF has the row's `OP` and `KK`. -/
theorem op_kk_of_match (w p : Word) (h : w &&& 0xF0FF = p) (hp : p &&& 0xF0FF = p) :
    fieldOP w = fieldOP p ∧ fieldKK w = fieldKK p :=
  (and_F0FF_eq_iff w p).1 (h.trans hp.symm)

/-! ### Bytes and words -/

/-- The number of a fetched word: the first byte times 256 plus the second (R33). -/
theorem joinBytes_toNat (hi lo : Byte) : (joinBytes hi lo).toNat = hi.toNat * 256 + lo.toNat := by
  simp only [joinBytes, BitVec.toNat_append]
  rw [← Nat.shiftLeft_add_eq_or_of_lt lo.isLt, Nat.shiftLeft_eq]

/-- A word is its high byte and its low byte (R33). -/
theorem joinBytes_highByte_lowByte (w : Word) : joinBytes (highByte w) (lowByte w) = w := by
  apply BitVec.eq_of_toNat_eq
  simp only [joinBytes_toNat, highByte, lowByte, BitVec.extractLsb'_toNat,
    Nat.shiftRight_eq_div_pow]
  omega

/-- The decoder on the bytes of a word reads the word and leaves what follows. -/
theorem decode_wordBytes (w : Word) (rest : List Byte) :
    decode (wordBytes w ++ rest) = .ok (decodeWord w, rest) := by
  simp [wordBytes, decode, joinBytes_highByte_lowByte]

/-- The table's word decodes as its word does. -/
theorem decodeTableWord_eq (nbits w : Nat) :
    decodeTableWord nbits w = some (decodeWord (tableWord nbits w)) := by
  simp [decodeTableWord, wordBytes, decode, joinBytes_highByte_lowByte]

end Sys2Proof
end

