-- ==== Sys2Proof/Laws/State.lean ====
section
/-!
SUPPORT. What each named update of the state does to each field: one lemma per field per update, so that
no proof unfolds a record update.
-/

namespace Sys2Proof.Machine

variable (s : State)

/-! ### `setReg` -/

@[simp] theorem State.setReg_x (r : Reg) (v : Byte) : (s.setReg r v).x = s.x.set r.val v := rfl
@[simp] theorem State.setReg_i (r : Reg) (v : Byte) : (s.setReg r v).i = s.i := rfl
@[simp] theorem State.setReg_pc (r : Reg) (v : Byte) : (s.setReg r v).pc = s.pc := rfl
@[simp] theorem State.setReg_stack (r : Reg) (v : Byte) : (s.setReg r v).stack = s.stack := rfl
@[simp] theorem State.setReg_sp (r : Reg) (v : Byte) : (s.setReg r v).sp = s.sp := rfl
@[simp] theorem State.setReg_dt (r : Reg) (v : Byte) : (s.setReg r v).dt = s.dt := rfl
@[simp] theorem State.setReg_st (r : Reg) (v : Byte) : (s.setReg r v).st = s.st := rfl
@[simp] theorem State.setReg_ir (r : Reg) (v : Byte) : (s.setReg r v).ir = s.ir := rfl
@[simp] theorem State.setReg_mem (r : Reg) (v : Byte) : (s.setReg r v).mem = s.mem := rfl
@[simp] theorem State.setReg_fb (r : Reg) (v : Byte) : (s.setReg r v).fb = s.fb := rfl
@[simp] theorem State.setReg_faultCode (r : Reg) (v : Byte) : (s.setReg r v).faultCode = s.faultCode := rfl
@[simp] theorem State.setReg_faultPc (r : Reg) (v : Byte) : (s.setReg r v).faultPc = s.faultPc := rfl
@[simp] theorem State.setReg_key (r : Reg) (v : Byte) : (s.setReg r v).key = s.key := rfl
@[simp] theorem State.setReg_rnd (r : Reg) (v : Byte) : (s.setReg r v).rnd = s.rnd := rfl
@[simp] theorem State.setReg_script (r : Reg) (v : Byte) : (s.setReg r v).script = s.script := rfl
@[simp] theorem State.setReg_turn (r : Reg) (v : Byte) : (s.setReg r v).turn = s.turn := rfl

/-! ### `setIndex` -/

@[simp] theorem State.setIndex_x (v : Word) : (s.setIndex v).x = s.x := rfl
@[simp] theorem State.setIndex_i (v : Word) : (s.setIndex v).i = v := rfl
@[simp] theorem State.setIndex_pc (v : Word) : (s.setIndex v).pc = s.pc := rfl
@[simp] theorem State.setIndex_stack (v : Word) : (s.setIndex v).stack = s.stack := rfl
@[simp] theorem State.setIndex_sp (v : Word) : (s.setIndex v).sp = s.sp := rfl
@[simp] theorem State.setIndex_dt (v : Word) : (s.setIndex v).dt = s.dt := rfl
@[simp] theorem State.setIndex_st (v : Word) : (s.setIndex v).st = s.st := rfl
@[simp] theorem State.setIndex_ir (v : Word) : (s.setIndex v).ir = s.ir := rfl
@[simp] theorem State.setIndex_mem (v : Word) : (s.setIndex v).mem = s.mem := rfl
@[simp] theorem State.setIndex_fb (v : Word) : (s.setIndex v).fb = s.fb := rfl
@[simp] theorem State.setIndex_faultCode (v : Word) : (s.setIndex v).faultCode = s.faultCode := rfl
@[simp] theorem State.setIndex_faultPc (v : Word) : (s.setIndex v).faultPc = s.faultPc := rfl
@[simp] theorem State.setIndex_key (v : Word) : (s.setIndex v).key = s.key := rfl
@[simp] theorem State.setIndex_rnd (v : Word) : (s.setIndex v).rnd = s.rnd := rfl
@[simp] theorem State.setIndex_script (v : Word) : (s.setIndex v).script = s.script := rfl
@[simp] theorem State.setIndex_turn (v : Word) : (s.setIndex v).turn = s.turn := rfl

/-! ### `setPc` -/

@[simp] theorem State.setPc_x (v : Word) : (s.setPc v).x = s.x := rfl
@[simp] theorem State.setPc_i (v : Word) : (s.setPc v).i = s.i := rfl
@[simp] theorem State.setPc_pc (v : Word) : (s.setPc v).pc = v := rfl
@[simp] theorem State.setPc_stack (v : Word) : (s.setPc v).stack = s.stack := rfl
@[simp] theorem State.setPc_sp (v : Word) : (s.setPc v).sp = s.sp := rfl
@[simp] theorem State.setPc_dt (v : Word) : (s.setPc v).dt = s.dt := rfl
@[simp] theorem State.setPc_st (v : Word) : (s.setPc v).st = s.st := rfl
@[simp] theorem State.setPc_ir (v : Word) : (s.setPc v).ir = s.ir := rfl
@[simp] theorem State.setPc_mem (v : Word) : (s.setPc v).mem = s.mem := rfl
@[simp] theorem State.setPc_fb (v : Word) : (s.setPc v).fb = s.fb := rfl
@[simp] theorem State.setPc_faultCode (v : Word) : (s.setPc v).faultCode = s.faultCode := rfl
@[simp] theorem State.setPc_faultPc (v : Word) : (s.setPc v).faultPc = s.faultPc := rfl
@[simp] theorem State.setPc_key (v : Word) : (s.setPc v).key = s.key := rfl
@[simp] theorem State.setPc_rnd (v : Word) : (s.setPc v).rnd = s.rnd := rfl
@[simp] theorem State.setPc_script (v : Word) : (s.setPc v).script = s.script := rfl
@[simp] theorem State.setPc_turn (v : Word) : (s.setPc v).turn = s.turn := rfl

/-! ### `setDelay` -/

@[simp] theorem State.setDelay_x (v : Byte) : (s.setDelay v).x = s.x := rfl
@[simp] theorem State.setDelay_i (v : Byte) : (s.setDelay v).i = s.i := rfl
@[simp] theorem State.setDelay_pc (v : Byte) : (s.setDelay v).pc = s.pc := rfl
@[simp] theorem State.setDelay_stack (v : Byte) : (s.setDelay v).stack = s.stack := rfl
@[simp] theorem State.setDelay_sp (v : Byte) : (s.setDelay v).sp = s.sp := rfl
@[simp] theorem State.setDelay_dt (v : Byte) : (s.setDelay v).dt = v := rfl
@[simp] theorem State.setDelay_st (v : Byte) : (s.setDelay v).st = s.st := rfl
@[simp] theorem State.setDelay_ir (v : Byte) : (s.setDelay v).ir = s.ir := rfl
@[simp] theorem State.setDelay_mem (v : Byte) : (s.setDelay v).mem = s.mem := rfl
@[simp] theorem State.setDelay_fb (v : Byte) : (s.setDelay v).fb = s.fb := rfl
@[simp] theorem State.setDelay_faultCode (v : Byte) : (s.setDelay v).faultCode = s.faultCode := rfl
@[simp] theorem State.setDelay_faultPc (v : Byte) : (s.setDelay v).faultPc = s.faultPc := rfl
@[simp] theorem State.setDelay_key (v : Byte) : (s.setDelay v).key = s.key := rfl
@[simp] theorem State.setDelay_rnd (v : Byte) : (s.setDelay v).rnd = s.rnd := rfl
@[simp] theorem State.setDelay_script (v : Byte) : (s.setDelay v).script = s.script := rfl
@[simp] theorem State.setDelay_turn (v : Byte) : (s.setDelay v).turn = s.turn := rfl

/-! ### `setSound` -/

@[simp] theorem State.setSound_x (v : Byte) : (s.setSound v).x = s.x := rfl
@[simp] theorem State.setSound_i (v : Byte) : (s.setSound v).i = s.i := rfl
@[simp] theorem State.setSound_pc (v : Byte) : (s.setSound v).pc = s.pc := rfl
@[simp] theorem State.setSound_stack (v : Byte) : (s.setSound v).stack = s.stack := rfl
@[simp] theorem State.setSound_sp (v : Byte) : (s.setSound v).sp = s.sp := rfl
@[simp] theorem State.setSound_dt (v : Byte) : (s.setSound v).dt = s.dt := rfl
@[simp] theorem State.setSound_st (v : Byte) : (s.setSound v).st = v := rfl
@[simp] theorem State.setSound_ir (v : Byte) : (s.setSound v).ir = s.ir := rfl
@[simp] theorem State.setSound_mem (v : Byte) : (s.setSound v).mem = s.mem := rfl
@[simp] theorem State.setSound_fb (v : Byte) : (s.setSound v).fb = s.fb := rfl
@[simp] theorem State.setSound_faultCode (v : Byte) : (s.setSound v).faultCode = s.faultCode := rfl
@[simp] theorem State.setSound_faultPc (v : Byte) : (s.setSound v).faultPc = s.faultPc := rfl
@[simp] theorem State.setSound_key (v : Byte) : (s.setSound v).key = s.key := rfl
@[simp] theorem State.setSound_rnd (v : Byte) : (s.setSound v).rnd = s.rnd := rfl
@[simp] theorem State.setSound_script (v : Byte) : (s.setSound v).script = s.script := rfl
@[simp] theorem State.setSound_turn (v : Byte) : (s.setSound v).turn = s.turn := rfl

/-! ### `setMem` -/

@[simp] theorem State.setMem_x (m : Memory) : (s.setMem m).x = s.x := rfl
@[simp] theorem State.setMem_i (m : Memory) : (s.setMem m).i = s.i := rfl
@[simp] theorem State.setMem_pc (m : Memory) : (s.setMem m).pc = s.pc := rfl
@[simp] theorem State.setMem_stack (m : Memory) : (s.setMem m).stack = s.stack := rfl
@[simp] theorem State.setMem_sp (m : Memory) : (s.setMem m).sp = s.sp := rfl
@[simp] theorem State.setMem_dt (m : Memory) : (s.setMem m).dt = s.dt := rfl
@[simp] theorem State.setMem_st (m : Memory) : (s.setMem m).st = s.st := rfl
@[simp] theorem State.setMem_ir (m : Memory) : (s.setMem m).ir = s.ir := rfl
@[simp] theorem State.setMem_mem (m : Memory) : (s.setMem m).mem = m := rfl
@[simp] theorem State.setMem_fb (m : Memory) : (s.setMem m).fb = s.fb := rfl
@[simp] theorem State.setMem_faultCode (m : Memory) : (s.setMem m).faultCode = s.faultCode := rfl
@[simp] theorem State.setMem_faultPc (m : Memory) : (s.setMem m).faultPc = s.faultPc := rfl
@[simp] theorem State.setMem_key (m : Memory) : (s.setMem m).key = s.key := rfl
@[simp] theorem State.setMem_rnd (m : Memory) : (s.setMem m).rnd = s.rnd := rfl
@[simp] theorem State.setMem_script (m : Memory) : (s.setMem m).script = s.script := rfl
@[simp] theorem State.setMem_turn (m : Memory) : (s.setMem m).turn = s.turn := rfl

/-! ### `setFrame` -/

@[simp] theorem State.setFrame_x (f : Frame) : (s.setFrame f).x = s.x := rfl
@[simp] theorem State.setFrame_i (f : Frame) : (s.setFrame f).i = s.i := rfl
@[simp] theorem State.setFrame_pc (f : Frame) : (s.setFrame f).pc = s.pc := rfl
@[simp] theorem State.setFrame_stack (f : Frame) : (s.setFrame f).stack = s.stack := rfl
@[simp] theorem State.setFrame_sp (f : Frame) : (s.setFrame f).sp = s.sp := rfl
@[simp] theorem State.setFrame_dt (f : Frame) : (s.setFrame f).dt = s.dt := rfl
@[simp] theorem State.setFrame_st (f : Frame) : (s.setFrame f).st = s.st := rfl
@[simp] theorem State.setFrame_ir (f : Frame) : (s.setFrame f).ir = s.ir := rfl
@[simp] theorem State.setFrame_mem (f : Frame) : (s.setFrame f).mem = s.mem := rfl
@[simp] theorem State.setFrame_fb (f : Frame) : (s.setFrame f).fb = f := rfl
@[simp] theorem State.setFrame_faultCode (f : Frame) : (s.setFrame f).faultCode = s.faultCode := rfl
@[simp] theorem State.setFrame_faultPc (f : Frame) : (s.setFrame f).faultPc = s.faultPc := rfl
@[simp] theorem State.setFrame_key (f : Frame) : (s.setFrame f).key = s.key := rfl
@[simp] theorem State.setFrame_rnd (f : Frame) : (s.setFrame f).rnd = s.rnd := rfl
@[simp] theorem State.setFrame_script (f : Frame) : (s.setFrame f).script = s.script := rfl
@[simp] theorem State.setFrame_turn (f : Frame) : (s.setFrame f).turn = s.turn := rfl

/-! ### `skipIf` -/

@[simp] theorem State.skipIf_x (c : Bool) : (s.skipIf c).x = s.x := rfl
@[simp] theorem State.skipIf_i (c : Bool) : (s.skipIf c).i = s.i := rfl
@[simp] theorem State.skipIf_pc (c : Bool) : (s.skipIf c).pc = if c then s.pc + 2 else s.pc := rfl
@[simp] theorem State.skipIf_stack (c : Bool) : (s.skipIf c).stack = s.stack := rfl
@[simp] theorem State.skipIf_sp (c : Bool) : (s.skipIf c).sp = s.sp := rfl
@[simp] theorem State.skipIf_dt (c : Bool) : (s.skipIf c).dt = s.dt := rfl
@[simp] theorem State.skipIf_st (c : Bool) : (s.skipIf c).st = s.st := rfl
@[simp] theorem State.skipIf_ir (c : Bool) : (s.skipIf c).ir = s.ir := rfl
@[simp] theorem State.skipIf_mem (c : Bool) : (s.skipIf c).mem = s.mem := rfl
@[simp] theorem State.skipIf_fb (c : Bool) : (s.skipIf c).fb = s.fb := rfl
@[simp] theorem State.skipIf_faultCode (c : Bool) : (s.skipIf c).faultCode = s.faultCode := rfl
@[simp] theorem State.skipIf_faultPc (c : Bool) : (s.skipIf c).faultPc = s.faultPc := rfl
@[simp] theorem State.skipIf_key (c : Bool) : (s.skipIf c).key = s.key := rfl
@[simp] theorem State.skipIf_rnd (c : Bool) : (s.skipIf c).rnd = s.rnd := rfl
@[simp] theorem State.skipIf_script (c : Bool) : (s.skipIf c).script = s.script := rfl
@[simp] theorem State.skipIf_turn (c : Bool) : (s.skipIf c).turn = s.turn := rfl

/-! ### `push` -/

@[simp] theorem State.push_x (v : Word) : (s.push v).x = s.x := rfl
@[simp] theorem State.push_i (v : Word) : (s.push v).i = s.i := rfl
@[simp] theorem State.push_pc (v : Word) : (s.push v).pc = s.pc := rfl
@[simp] theorem State.push_stack (v : Word) : (s.push v).stack = s.stack.setIfInBounds s.sp.val v := rfl
@[simp] theorem State.push_sp (v : Word) : (s.push v).sp = Fin.ofNat 17 (s.sp.val + 1) := rfl
@[simp] theorem State.push_dt (v : Word) : (s.push v).dt = s.dt := rfl
@[simp] theorem State.push_st (v : Word) : (s.push v).st = s.st := rfl
@[simp] theorem State.push_ir (v : Word) : (s.push v).ir = s.ir := rfl
@[simp] theorem State.push_mem (v : Word) : (s.push v).mem = s.mem := rfl
@[simp] theorem State.push_fb (v : Word) : (s.push v).fb = s.fb := rfl
@[simp] theorem State.push_faultCode (v : Word) : (s.push v).faultCode = s.faultCode := rfl
@[simp] theorem State.push_faultPc (v : Word) : (s.push v).faultPc = s.faultPc := rfl
@[simp] theorem State.push_key (v : Word) : (s.push v).key = s.key := rfl
@[simp] theorem State.push_rnd (v : Word) : (s.push v).rnd = s.rnd := rfl
@[simp] theorem State.push_script (v : Word) : (s.push v).script = s.script := rfl
@[simp] theorem State.push_turn (v : Word) : (s.push v).turn = s.turn := rfl

/-! ### `popToPc` -/

@[simp] theorem State.popToPc_x : (s.popToPc).x = s.x := rfl
@[simp] theorem State.popToPc_i : (s.popToPc).i = s.i := rfl
@[simp] theorem State.popToPc_pc : (s.popToPc).pc = s.stackEntry (s.sp.val - 1) := rfl
@[simp] theorem State.popToPc_stack : (s.popToPc).stack = s.stack := rfl
@[simp] theorem State.popToPc_sp : (s.popToPc).sp = Fin.ofNat 17 (s.sp.val - 1) := rfl
@[simp] theorem State.popToPc_dt : (s.popToPc).dt = s.dt := rfl
@[simp] theorem State.popToPc_st : (s.popToPc).st = s.st := rfl
@[simp] theorem State.popToPc_ir : (s.popToPc).ir = s.ir := rfl
@[simp] theorem State.popToPc_mem : (s.popToPc).mem = s.mem := rfl
@[simp] theorem State.popToPc_fb : (s.popToPc).fb = s.fb := rfl
@[simp] theorem State.popToPc_faultCode : (s.popToPc).faultCode = s.faultCode := rfl
@[simp] theorem State.popToPc_faultPc : (s.popToPc).faultPc = s.faultPc := rfl
@[simp] theorem State.popToPc_key : (s.popToPc).key = s.key := rfl
@[simp] theorem State.popToPc_rnd : (s.popToPc).rnd = s.rnd := rfl
@[simp] theorem State.popToPc_script : (s.popToPc).script = s.script := rfl
@[simp] theorem State.popToPc_turn : (s.popToPc).turn = s.turn := rfl

/-! ### `storeAtIndex` -/

@[simp] theorem State.storeAtIndex_x (bs : List Byte) : (s.storeAtIndex bs).x = s.x := rfl
@[simp] theorem State.storeAtIndex_i (bs : List Byte) : (s.storeAtIndex bs).i = s.i := rfl
@[simp] theorem State.storeAtIndex_pc (bs : List Byte) : (s.storeAtIndex bs).pc = s.pc := rfl
@[simp] theorem State.storeAtIndex_stack (bs : List Byte) : (s.storeAtIndex bs).stack = s.stack := rfl
@[simp] theorem State.storeAtIndex_sp (bs : List Byte) : (s.storeAtIndex bs).sp = s.sp := rfl
@[simp] theorem State.storeAtIndex_dt (bs : List Byte) : (s.storeAtIndex bs).dt = s.dt := rfl
@[simp] theorem State.storeAtIndex_st (bs : List Byte) : (s.storeAtIndex bs).st = s.st := rfl
@[simp] theorem State.storeAtIndex_ir (bs : List Byte) : (s.storeAtIndex bs).ir = s.ir := rfl
@[simp] theorem State.storeAtIndex_mem (bs : List Byte) : (s.storeAtIndex bs).mem = Memory.writeBlock s.mem s.i.toNat bs := rfl
@[simp] theorem State.storeAtIndex_fb (bs : List Byte) : (s.storeAtIndex bs).fb = s.fb := rfl
@[simp] theorem State.storeAtIndex_faultCode (bs : List Byte) : (s.storeAtIndex bs).faultCode = s.faultCode := rfl
@[simp] theorem State.storeAtIndex_faultPc (bs : List Byte) : (s.storeAtIndex bs).faultPc = s.faultPc := rfl
@[simp] theorem State.storeAtIndex_key (bs : List Byte) : (s.storeAtIndex bs).key = s.key := rfl
@[simp] theorem State.storeAtIndex_rnd (bs : List Byte) : (s.storeAtIndex bs).rnd = s.rnd := rfl
@[simp] theorem State.storeAtIndex_script (bs : List Byte) : (s.storeAtIndex bs).script = s.script := rfl
@[simp] theorem State.storeAtIndex_turn (bs : List Byte) : (s.storeAtIndex bs).turn = s.turn := rfl

/-! ### `advance` -/

@[simp] theorem State.advance_x (w : Word) : (s.advance w).x = s.x := rfl
@[simp] theorem State.advance_i (w : Word) : (s.advance w).i = s.i := rfl
@[simp] theorem State.advance_pc (w : Word) : (s.advance w).pc = s.pc + 2 := rfl
@[simp] theorem State.advance_stack (w : Word) : (s.advance w).stack = s.stack := rfl
@[simp] theorem State.advance_sp (w : Word) : (s.advance w).sp = s.sp := rfl
@[simp] theorem State.advance_dt (w : Word) : (s.advance w).dt = s.dt := rfl
@[simp] theorem State.advance_st (w : Word) : (s.advance w).st = s.st := rfl
@[simp] theorem State.advance_ir (w : Word) : (s.advance w).ir = w := rfl
@[simp] theorem State.advance_mem (w : Word) : (s.advance w).mem = s.mem := rfl
@[simp] theorem State.advance_fb (w : Word) : (s.advance w).fb = s.fb := rfl
@[simp] theorem State.advance_faultCode (w : Word) : (s.advance w).faultCode = s.faultCode := rfl
@[simp] theorem State.advance_faultPc (w : Word) : (s.advance w).faultPc = s.faultPc := rfl
@[simp] theorem State.advance_key (w : Word) : (s.advance w).key = s.key := rfl
@[simp] theorem State.advance_rnd (w : Word) : (s.advance w).rnd = s.rnd := rfl
@[simp] theorem State.advance_script (w : Word) : (s.advance w).script = s.script := rfl
@[simp] theorem State.advance_turn (w : Word) : (s.advance w).turn = s.turn := rfl

/-! ### `tick` -/

@[simp] theorem State.tick_x : (s.tick).x = s.x := rfl
@[simp] theorem State.tick_i : (s.tick).i = s.i := rfl
@[simp] theorem State.tick_pc : (s.tick).pc = s.pc := rfl
@[simp] theorem State.tick_stack : (s.tick).stack = s.stack := rfl
@[simp] theorem State.tick_sp : (s.tick).sp = s.sp := rfl
@[simp] theorem State.tick_dt : (s.tick).dt = tickTimer s.dt := rfl
@[simp] theorem State.tick_st : (s.tick).st = tickTimer s.st := rfl
@[simp] theorem State.tick_ir : (s.tick).ir = s.ir := rfl
@[simp] theorem State.tick_mem : (s.tick).mem = s.mem := rfl
@[simp] theorem State.tick_fb : (s.tick).fb = s.fb := rfl
@[simp] theorem State.tick_faultCode : (s.tick).faultCode = s.faultCode := rfl
@[simp] theorem State.tick_faultPc : (s.tick).faultPc = s.faultPc := rfl
@[simp] theorem State.tick_key : (s.tick).key = s.key := rfl
@[simp] theorem State.tick_rnd : (s.tick).rnd = s.rnd := rfl
@[simp] theorem State.tick_script : (s.tick).script = s.script := rfl
@[simp] theorem State.tick_turn : (s.tick).turn = s.turn := rfl

/-! ### `takeFault` -/

@[simp] theorem State.takeFault_x (f : Fault) : (s.takeFault f).x = s.x := rfl
@[simp] theorem State.takeFault_i (f : Fault) : (s.takeFault f).i = s.i := rfl
@[simp] theorem State.takeFault_pc (f : Fault) : (s.takeFault f).pc = s.pc := rfl
@[simp] theorem State.takeFault_stack (f : Fault) : (s.takeFault f).stack = s.stack := rfl
@[simp] theorem State.takeFault_sp (f : Fault) : (s.takeFault f).sp = s.sp := rfl
@[simp] theorem State.takeFault_dt (f : Fault) : (s.takeFault f).dt = s.dt := rfl
@[simp] theorem State.takeFault_st (f : Fault) : (s.takeFault f).st = s.st := rfl
@[simp] theorem State.takeFault_ir (f : Fault) : (s.takeFault f).ir = s.ir := rfl
@[simp] theorem State.takeFault_mem (f : Fault) : (s.takeFault f).mem = s.mem := rfl
@[simp] theorem State.takeFault_fb (f : Fault) : (s.takeFault f).fb = s.fb := rfl
@[simp] theorem State.takeFault_faultCode (f : Fault) : (s.takeFault f).faultCode = faultCodeOf f := rfl
@[simp] theorem State.takeFault_faultPc (f : Fault) : (s.takeFault f).faultPc = s.pc := rfl
@[simp] theorem State.takeFault_key (f : Fault) : (s.takeFault f).key = s.key := rfl
@[simp] theorem State.takeFault_rnd (f : Fault) : (s.takeFault f).rnd = s.rnd := rfl
@[simp] theorem State.takeFault_script (f : Fault) : (s.takeFault f).script = s.script := rfl
@[simp] theorem State.takeFault_turn (f : Fault) : (s.takeFault f).turn = s.turn := rfl

/-! ### `present` -/

@[simp] theorem State.present_x (t : HostTurn) : (s.present t).x = s.x := rfl
@[simp] theorem State.present_i (t : HostTurn) : (s.present t).i = s.i := rfl
@[simp] theorem State.present_pc (t : HostTurn) : (s.present t).pc = s.pc := rfl
@[simp] theorem State.present_stack (t : HostTurn) : (s.present t).stack = s.stack := rfl
@[simp] theorem State.present_sp (t : HostTurn) : (s.present t).sp = s.sp := rfl
@[simp] theorem State.present_dt (t : HostTurn) : (s.present t).dt = t.delay.getD s.dt := rfl
@[simp] theorem State.present_st (t : HostTurn) : (s.present t).st = t.sound.getD s.st := rfl
@[simp] theorem State.present_ir (t : HostTurn) : (s.present t).ir = s.ir := rfl
@[simp] theorem State.present_mem (t : HostTurn) : (s.present t).mem = s.mem := rfl
@[simp] theorem State.present_fb (t : HostTurn) : (s.present t).fb = s.fb := rfl
@[simp] theorem State.present_faultCode (t : HostTurn) : (s.present t).faultCode = s.faultCode := rfl
@[simp] theorem State.present_faultPc (t : HostTurn) : (s.present t).faultPc = s.faultPc := rfl
@[simp] theorem State.present_key (t : HostTurn) : (s.present t).key = t.key := rfl
@[simp] theorem State.present_rnd (t : HostTurn) : (s.present t).rnd = t.rnd := rfl
@[simp] theorem State.present_script (t : HostTurn) : (s.present t).script = s.script := rfl
@[simp] theorem State.present_turn (t : HostTurn) : (s.present t).turn = s.turn := rfl

/-! ### Registers and stack entries through the updates -/

@[simp] theorem State.reg_setReg (r q : Reg) (v : Byte) :
    (s.setReg r v).reg q = if q = r then v else s.reg q := by
  simp only [State.reg, State.setReg, Vector.getElem_set, Fin.ext_iff, eq_comm]

@[simp] theorem State.reg_setIndex (q : Reg) (v : Word) : (s.setIndex v).reg q = s.reg q := rfl
@[simp] theorem State.reg_setPc (q : Reg) (v : Word) : (s.setPc v).reg q = s.reg q := rfl
@[simp] theorem State.reg_setDelay (q : Reg) (v : Byte) : (s.setDelay v).reg q = s.reg q := rfl
@[simp] theorem State.reg_setSound (q : Reg) (v : Byte) : (s.setSound v).reg q = s.reg q := rfl
@[simp] theorem State.reg_setMem (q : Reg) (m : Memory) : (s.setMem m).reg q = s.reg q := rfl
@[simp] theorem State.reg_setFrame (q : Reg) (f : Frame) : (s.setFrame f).reg q = s.reg q := rfl
@[simp] theorem State.reg_skipIf (q : Reg) (c : Bool) : (s.skipIf c).reg q = s.reg q := rfl
@[simp] theorem State.reg_push (q : Reg) (v : Word) : (s.push v).reg q = s.reg q := rfl
@[simp] theorem State.reg_popToPc (q : Reg) : (s.popToPc).reg q = s.reg q := rfl
@[simp] theorem State.reg_storeAtIndex (q : Reg) (bs : List Byte) : (s.storeAtIndex bs).reg q = s.reg q := rfl
@[simp] theorem State.reg_advance (q : Reg) (w : Word) : (s.advance w).reg q = s.reg q := rfl
@[simp] theorem State.reg_tick (q : Reg) : (s.tick).reg q = s.reg q := rfl
@[simp] theorem State.reg_takeFault (q : Reg) (f : Fault) : (s.takeFault f).reg q = s.reg q := rfl
@[simp] theorem State.reg_present (q : Reg) (t : HostTurn) : (s.present t).reg q = s.reg q := rfl

@[simp] theorem State.stackEntry_setReg (j : Nat) (r : Reg) (v : Byte) :
    (s.setReg r v).stackEntry j = s.stackEntry j := rfl
@[simp] theorem State.stackEntry_setIndex (j : Nat) (v : Word) :
    (s.setIndex v).stackEntry j = s.stackEntry j := rfl
@[simp] theorem State.stackEntry_setPc (j : Nat) (v : Word) :
    (s.setPc v).stackEntry j = s.stackEntry j := rfl
@[simp] theorem State.stackEntry_setDelay (j : Nat) (v : Byte) :
    (s.setDelay v).stackEntry j = s.stackEntry j := rfl
@[simp] theorem State.stackEntry_setSound (j : Nat) (v : Byte) :
    (s.setSound v).stackEntry j = s.stackEntry j := rfl
@[simp] theorem State.stackEntry_setMem (j : Nat) (m : Memory) :
    (s.setMem m).stackEntry j = s.stackEntry j := rfl
@[simp] theorem State.stackEntry_setFrame (j : Nat) (f : Frame) :
    (s.setFrame f).stackEntry j = s.stackEntry j := rfl
@[simp] theorem State.stackEntry_skipIf (j : Nat) (c : Bool) :
    (s.skipIf c).stackEntry j = s.stackEntry j := rfl
@[simp] theorem State.stackEntry_popToPc (j : Nat) :
    (s.popToPc).stackEntry j = s.stackEntry j := rfl
@[simp] theorem State.stackEntry_storeAtIndex (j : Nat) (bs : List Byte) :
    (s.storeAtIndex bs).stackEntry j = s.stackEntry j := rfl
@[simp] theorem State.stackEntry_advance (j : Nat) (w : Word) :
    (s.advance w).stackEntry j = s.stackEntry j := rfl
@[simp] theorem State.stackEntry_tick (j : Nat) :
    (s.tick).stackEntry j = s.stackEntry j := rfl
@[simp] theorem State.stackEntry_takeFault (j : Nat) (f : Fault) :
    (s.takeFault f).stackEntry j = s.stackEntry j := rfl
@[simp] theorem State.stackEntry_present (j : Nat) (t : HostTurn) :
    (s.present t).stackEntry j = s.stackEntry j := rfl

/-- A push writes entry `sp` and leaves every other entry (R14, R77). -/
theorem State.stackEntry_push (h : s.sp.val < 16) (v : Word) (j : Nat) :
    (s.push v).stackEntry j = if j = s.sp.val then v else s.stackEntry j := by
  simp only [State.stackEntry, State.push, Vector.getElem?_setIfInBounds]
  split <;> simp_all [eq_comm]

theorem State.push_sp_val (h : s.sp.val < 16) (v : Word) : (s.push v).sp.val = s.sp.val + 1 := by
  simp only [State.push_sp, Fin.val_ofNat]; omega

theorem State.popToPc_sp_val : s.popToPc.sp.val = s.sp.val - 1 := by
  simp only [State.popToPc_sp, Fin.val_ofNat]; omega

/-- The state is what its fields are: two states with the same fields are equal. -/
theorem State.setReg_eq (r : Reg) (v : Byte) : s.setReg r v = { s with x := (s.setReg r v).x } := rfl

end Sys2Proof.Machine
end

