-- ==== Sys2Proof/Laws/Frame.lean ====
section
/-!
SUPPORT. The framebuffer: what a toggle, a list of toggles and the clearing do to each cell, and which
cells a sprite lights.
-/

namespace Sys2Proof.Machine

/-- The cell exists: row at most 31, column at most 63 (R72). -/
theorem inGrid_iff (rc : Nat × Nat) : inGrid rc = true ↔ rc.1 < 32 ∧ rc.2 < 64 := by
  simp [inGrid]

@[simp] theorem Frame.cell_clear (r c : Nat) : Frame.cell Frame.clear r c = false := by
  simp [Frame.cell, Frame.clear]

/-- A toggle inverts its cell, if the cell exists, and leaves every other (R71). -/
theorem Frame.cell_toggle (f : Frame) (rc : Nat × Nat) (r c : Nat) :
    Frame.cell (Frame.toggle f rc) r c =
      if inGrid rc = true ∧ (r, c) = rc then !Frame.cell f r c else Frame.cell f r c := by
  obtain ⟨p, q⟩ := rc
  simp only [Frame.toggle, inGrid_iff, Prod.mk.injEq]
  split
  · rename_i h
    simp only [Frame.cell]
    by_cases hrc : r < 32 ∧ c < 64
    · simp only [hrc, and_self, dite_true, h, true_and]
      by_cases hr : p = r
      · subst hr
        by_cases hc : q = c
        · subst hc; simp
        · simp [hc, Ne.symm hc]
      · simp [hr, Ne.symm hr]
    · simp only [hrc, dite_false]
      split
      · rename_i h2; omega
      · rfl
  · rename_i h; simp [h]

/-- Toggling distinct cells of the grid inverts exactly those cells (R71). -/
theorem Frame.cell_toggles (f : Frame) (cells : List (Nat × Nat)) (hd : cells.Nodup)
    (hg : cells.all inGrid = true) (r c : Nat) :
    Frame.cell (cells.foldl Frame.toggle f) r c =
      (Frame.cell f r c ^^ decide ((r, c) ∈ cells)) := by
  induction cells generalizing f with
  | nil => simp
  | cons rc rest ih =>
    have hd' := List.nodup_cons.1 hd
    simp only [List.all_cons, Bool.and_eq_true] at hg
    rw [List.foldl_cons, ih _ hd'.2 hg.2, Frame.cell_toggle]
    by_cases h : (r, c) = rc
    · subst h; simp [hg.1, hd'.1]
    · simp [h, List.mem_cons]

/-- Two frames with the same cells are equal. -/
theorem Frame.ext_cell (f g : Frame) (h : ∀ r c, Frame.cell f r c = Frame.cell g r c) : f = g := by
  refine Vector.ext fun r hr => Vector.ext fun c hc => ?_
  have := h r c
  simpa [Frame.cell, hr, hc] using this

/-- The cells of one sprite row. -/
theorem mem_spriteRow (b : Byte) (x y r c : Nat) :
    (r, c) ∈ spriteRow b x y ↔ ∃ j, j < 8 ∧ r = y ∧ c = x + j ∧ b.getLsbD (7 - j) = true := by
  simp only [spriteRow, spriteBit, List.mem_map, List.mem_filter, List.mem_range, Prod.mk.injEq]
  constructor
  · rintro ⟨j, ⟨h1, h2⟩, h3, h4⟩; exact ⟨j, h1, h3.symm, h4.symm, h2⟩
  · rintro ⟨j, h1, h3, h4, h2⟩; exact ⟨j, ⟨h1, h2⟩, h3.symm, h4.symm⟩

/-- The cells of a sprite: bit `7 - j` of byte `k` is row `y + k`, column `x + j` (R72). -/
theorem mem_spriteCells (bs : List Byte) (x y r c : Nat) :
    (r, c) ∈ spriteCells bs x y ↔
      ∃ k j, k < bs.length ∧ j < 8 ∧ r = y + k ∧ c = x + j ∧ (bs.getD k 0).getLsbD (7 - j) = true := by
  induction bs generalizing y with
  | nil => simp [spriteCells]
  | cons b rest ih =>
    simp only [spriteCells, List.mem_append, mem_spriteRow, ih, List.length_cons]
    constructor
    · rintro (⟨j, h1, h2, h3, h4⟩ | ⟨k, j, h1, h2, h3, h4, h5⟩)
      · exact ⟨0, j, by omega, h1, by omega, h3, by simpa using h4⟩
      · exact ⟨k + 1, j, by omega, h2, by omega, h4, by simpa using h5⟩
    · rintro ⟨k, j, h1, h2, h3, h4, h5⟩
      cases k with
      | zero => exact .inl ⟨j, h2, by omega, h4, by simpa using h5⟩
      | succ k => exact .inr ⟨k, j, by omega, h2, by omega, h4, by simpa using h5⟩

/-- No cell is named twice by one sprite (R71). -/
theorem nodup_spriteCells (bs : List Byte) (x y : Nat) : (spriteCells bs x y).Nodup := by
  induction bs generalizing y with
  | nil => simp [spriteCells]
  | cons b rest ih =>
    simp only [spriteCells]
    refine List.Nodup.append ?_ (ih _) ?_
    · refine List.Nodup.map ?_ (List.nodup_range.filter _)
      intro i j h; simp only [Prod.mk.injEq] at h; omega
    · rintro ⟨r, c⟩ h1 h2
      obtain ⟨j, _, hr, _⟩ := (mem_spriteRow b x y r c).1 h1
      obtain ⟨k, _, _, _, hr', _⟩ := (mem_spriteCells rest x (y + 1) r c).1 h2
      omega

/-- The lit cells of a `draw` (R72). -/
theorem mem_drawCells (s : State) (x y : Reg) (n : Nibble) (r c : Nat) :
    (r, c) ∈ s.drawCells x y n ↔
      ∃ k j, k < n.toNat ∧ j < 8 ∧ r = (s.reg y).toNat % 32 + k ∧ c = (s.reg x).toNat % 64 + j ∧
        (Memory.read s.mem (s.i.toNat + k)).getLsbD (7 - j) = true := by
  simp only [State.drawCells, mem_spriteCells, State.blockAtIndex, Memory.readBlock, List.length_map,
    List.length_range, Config.fbWidth, Config.fbHeight]
  refine exists_congr fun k => exists_congr fun j => ?_
  refine and_congr_right fun hk => ?_
  simp [List.getD_eq_getElem?_getD, hk]

end Sys2Proof.Machine
end

