-- ==== Sys2Proof/Laws/Memory.lean ====
section
/-!
SUPPORT. Memory: what a read gives after a write, and that every memory operation keeps the canonical form.
-/

namespace Sys2Proof.Machine

/-! ### Reads after writes -/

theorem Memory.read_insert (m : Memory) (a b : Nat) (v : Byte) (h : ∀ p ∈ m, p.1 ≠ a) :
    Memory.read (Memory.insert m a v) b = if b = a then v else Memory.read m b := by
  induction m with
  | nil => simp only [Memory.insert, Memory.read, eq_comm]
  | cons p rest ih =>
    obtain ⟨c, w⟩ := p
    have hc : c ≠ a := h (c, w) (by simp)
    have ih := ih fun q hq => h q (by simp [hq])
    simp only [Memory.insert]
    split
    · simp only [Memory.read, eq_comm]
    · simp only [Memory.read, ih]
      split
      · simp_all
      · rfl

theorem Memory.read_others (m : Memory) (a b : Nat) :
    Memory.read (m.filter (fun p => p.1 ≠ a)) b = if b = a then resetByte a else Memory.read m b := by
  induction m with
  | nil => simp only [List.filter_nil, Memory.read]; split <;> simp_all
  | cons p rest ih =>
    obtain ⟨c, w⟩ := p
    by_cases hc : c = a
    · subst hc
      simp only [ne_eq, not_true_eq_false, decide_false, Bool.false_eq_true, not_false_eq_true,
        List.filter_cons_of_neg, ih, Memory.read]
      split
      · rfl
      · rename_i hb; simp [Ne.symm hb]
    · simp only [ne_eq, hc, not_false_eq_true, decide_true, List.filter_cons_of_pos, Memory.read] at ih ⊢
      rw [ih]
      split
      · rename_i hcb; subst hcb; simp [hc]
      · rfl

/-- A read gives the value written there, and every other address reads as before. -/
@[simp] theorem Memory.read_write (m : Memory) (a b : Nat) (v : Byte) :
    Memory.read (Memory.write m a v) b = if b = a then v else Memory.read m b := by
  simp only [Memory.write]
  split
  · rename_i hv; rw [Memory.read_others, hv]
  · rw [Memory.read_insert, Memory.read_others]
    · split <;> rfl
    · intro p hp; simpa using (List.mem_filter.1 hp).2

/-- A block reads as written, and every address outside it reads as before. -/
theorem Memory.read_writeBlock (m : Memory) (a b : Nat) (bs : List Byte) :
    Memory.read (Memory.writeBlock m a bs) b =
      if a ≤ b ∧ b < a + bs.length then bs.getD (b - a) 0 else Memory.read m b := by
  induction bs generalizing m a with
  | nil => simp [Memory.writeBlock]
  | cons v rest ih =>
    simp only [Memory.writeBlock, ih, Memory.read_write, List.length_cons]
    by_cases hb : b = a
    · subst hb; simp
    · by_cases h1 : a + 1 ≤ b ∧ b < a + 1 + rest.length
      · obtain ⟨k, rfl⟩ : ∃ k, b = a + 1 + k := ⟨b - (a + 1), by omega⟩
        have hk : a + 1 + k - a = k + 1 := by omega
        rw [if_pos h1, if_pos (by omega), hk]
        simp
      · rw [if_neg h1, if_neg hb, if_neg (by omega)]

@[simp] theorem Memory.length_readBlock (m : Memory) (a n : Nat) :
    (Memory.readBlock m a n).length = n := by simp [Memory.readBlock]

theorem Memory.getD_readBlock (m : Memory) (a n k : Nat) :
    (Memory.readBlock m a n).getD k 0 = if k < n then Memory.read m (a + k) else 0 := by
  by_cases h : k < n <;> simp [Memory.readBlock, List.getD_eq_getElem?_getD, h]

/-! ### The canonical form -/

theorem Memory.wf_nil : Memory.wf [] := ⟨.nil, by simp⟩

theorem Memory.mem_insert (m : Memory) (a : Nat) (v : Byte) (p : Host.Cell) :
    p ∈ Memory.insert m a v ↔ p = (a, v) ∨ p ∈ m := by
  induction m with
  | nil => simp [Memory.insert]
  | cons q rest ih =>
    obtain ⟨c, w⟩ := q
    simp only [Memory.insert]
    split
    · simp
    · simp only [List.mem_cons, ih]; tauto

theorem Memory.pairwise_insert (m : Memory) (a : Nat) (v : Byte)
    (hm : m.Pairwise (fun p q => p.1 < q.1)) (h : ∀ p ∈ m, p.1 ≠ a) :
    (Memory.insert m a v).Pairwise (fun p q => p.1 < q.1) := by
  induction m with
  | nil => simp [Memory.insert]
  | cons q rest ih =>
    obtain ⟨c, w⟩ := q
    have hr := List.pairwise_cons.1 hm
    simp only [Memory.insert]
    split
    · rename_i hac
      refine List.pairwise_cons.2 ⟨fun p hp => ?_, hm⟩
      rcases List.mem_cons.1 hp with rfl | hp
      · exact hac
      · exact Nat.lt_trans hac (hr.1 p hp)
    · rename_i hac
      have hca : c ≠ a := h (c, w) (by simp)
      refine List.pairwise_cons.2 ⟨fun p hp => ?_, ih hr.2 fun p hp => h p (by simp [hp])⟩
      rcases (Memory.mem_insert rest a v p).1 hp with rfl | hp
      · show c < a; omega
      · exact hr.1 p hp

/-- A write inside memory keeps the canonical form. -/
theorem Memory.wf_write (m : Memory) (a : Nat) (v : Byte) (hm : Memory.wf m) (ha : a < Config.memSize) :
    Memory.wf (Memory.write m a v) := by
  have hf : ∀ p ∈ m.filter (fun p => p.1 ≠ a), p.1 ≠ a := fun p hp => by
    simpa using (List.mem_filter.1 hp).2
  have hs : Memory.wf (m.filter (fun p => p.1 ≠ a)) :=
    ⟨hm.1.filter _, fun p hp => hm.2 p (List.mem_filter.1 hp).1⟩
  simp only [Memory.write]
  split
  · exact hs
  · rename_i hv
    refine ⟨Memory.pairwise_insert _ a v hs.1 hf, fun p hp => ?_⟩
    rcases (Memory.mem_insert _ a v p).1 hp with rfl | hp
    · exact ⟨ha, hv⟩
    · exact hs.2 p hp

/-- A block write inside memory keeps the canonical form. -/
theorem Memory.wf_writeBlock (m : Memory) (a : Nat) (bs : List Byte) (hm : Memory.wf m)
    (ha : a + bs.length ≤ Config.memSize) : Memory.wf (Memory.writeBlock m a bs) := by
  induction bs generalizing m a with
  | nil => exact hm
  | cons v rest ih =>
    simp only [List.length_cons] at ha
    exact ih _ _ (Memory.wf_write m a v hm (by omega)) (by omega)

/-- The memory of a fresh boot is in canonical form, whatever the image (R44). -/
theorem wf_loadImage (image : List Byte) : Memory.wf (loadImage image) := by
  refine Memory.wf_writeBlock _ _ _ Memory.wf_nil ?_
  simp only [Config.progStart, Config.memSize, Config.romMax, List.length_take]
  omega

theorem wf_reset : Memory.wf State.reset.mem := Memory.wf_nil

/-- Storing at `I` a block that fits keeps the canonical form (R32). -/
theorem wf_storeAtIndex (s : State) (bs : List Byte) (hm : Memory.wf s.mem)
    (h : blockFits s.i bs.length = true) : Memory.wf (s.storeAtIndex bs).mem := by
  simp only [blockFits, Bool.or_eq_true, decide_eq_true_eq] at h
  rcases h with h | h
  · have : bs = [] := List.length_eq_zero_iff.1 h
    subst this; exact hm
  · exact Memory.wf_writeBlock _ _ _ hm h

end Sys2Proof.Machine
end

