-- ==== Sys2Proof/Laws/Exec.lean ====
section
/-!
SUPPORT. One lemma per shared operation of the meanings that says once everything it does, and what every
instruction leaves alone.
-/

namespace Sys2Proof.Machine

/-! ### Operands -/

theorem blockFits_iff (i : Word) (n : Nat) :
    blockFits i n = true ↔ n = 0 ∨ i.toNat + n ≤ 4096 := by
  simp [blockFits]

theorem isKey_iff (k : Byte) : isKey k = true ↔ k.toNat ≤ 15 := by
  simp only [isKey, Config.numKeys, decide_eq_true_eq]; omega

theorem addrOperand_toNat (nnn : Addr) : (addrOperand nnn).toNat = nnn.toNat := by
  simp only [addrOperand, BitVec.toNat_setWidth]; omega

theorem byteOperand_toNat (v : Byte) : (byteOperand v).toNat = v.toNat := by
  simp only [byteOperand, BitVec.toNat_setWidth]; omega

theorem glyphAddress_toNat (v : Byte) : (glyphAddress v).toNat = 0x50 + 5 * v.toNat := by
  simp only [glyphAddress, Config.fontStart, Config.glyphBytes, BitVec.toNat_ofNat]; omega

theorem flagByte_toNat (b : Bool) : (flagByte b).toNat = if b then 1 else 0 := by
  cases b <;> rfl

/-- A tick takes 1 from a timer and leaves 0 at 0 (R64). -/
theorem tickTimer_toNat (v : Byte) : (tickTimer v).toNat = v.toNat - 1 := by
  simp only [tickTimer]
  split
  · rename_i h; subst h; rfl
  · rename_i h
    have : v.toNat ≠ 0 := fun h' => h (BitVec.eq_of_toNat_eq h')
    have h1 : (1 : Byte).toNat = 1 := rfl
    rw [BitVec.toNat_sub, h1]
    omega

/-- The least pressed key is pressed, is a key, and no smaller key is pressed (R113). -/
theorem lowestKey_spec (key : Word) (h : key ≠ 0) :
    (lowestKey key).toNat ≤ 15 ∧ key.getLsbD (lowestKey key).toNat = true ∧
      ∀ k, k < (lowestKey key).toNat → key.getLsbD k = false := by
  have hex : ∃ k, k < 16 ∧ key.getLsbD k = true := by
    by_contra hno
    apply h
    apply BitVec.eq_of_getLsbD_eq
    intro k hk
    have := fun hp => hno ⟨k, hk, hp⟩
    simpa using this
  cases hf : (List.range 16).find? (keyPressed key) with
  | none =>
    obtain ⟨k, hk, hp⟩ := hex
    have := List.find?_eq_none.1 hf k (by simpa using hk)
    exact absurd hp (by simpa [keyPressed] using this)
  | some k =>
    have hk : k < 16 := by simpa using List.mem_of_find?_eq_some hf
    have hv : (lowestKey key).toNat = k := by
      simp only [lowestKey, Config.numKeys, hf, Option.getD_some, BitVec.toNat_ofNat]; omega
    rw [hv]
    refine ⟨by omega, by simpa [keyPressed] using List.find?_some hf, fun j hj => ?_⟩
    have := (List.find?_range_eq_some.1 hf).2.2 j hj
    simpa [keyPressed] using this

/-! ### Blocks of registers and memory -/

@[simp] theorem State.length_regsUpTo (s : State) (x : Reg) : (s.regsUpTo x).length = x.val + 1 := by
  simp [State.regsUpTo]

theorem State.getD_regsUpTo (s : State) (x : Reg) (k : Nat) (h : k ≤ x.val) :
    (s.regsUpTo x).getD k 0 = s.reg (Fin.ofNat 16 k) := by
  simp [State.regsUpTo, List.getD_eq_getElem?_getD, Nat.lt_succ_of_le h]

@[simp] theorem length_bcdDigits (v : Byte) : (bcdDigits v).length = 3 := by
  simp [bcdDigits]

/-- A store at `I`: the block reads as stored, every other byte as before (R106). -/
theorem State.read_storeAtIndex (s : State) (bs : List Byte) (a : Nat) :
    Memory.read (s.storeAtIndex bs).mem a =
      if s.i.toNat ≤ a ∧ a < s.i.toNat + bs.length then bs.getD (a - s.i.toNat) 0
      else Memory.read s.mem a :=
  Memory.read_writeBlock _ _ _ _

theorem State.loadFold_spec (s : State) (n : Nat) (hn : n ≤ 16) :
    let t := (List.range n).foldl
      (fun t k => t.setReg (Fin.ofNat 16 k) (Memory.read s.mem (s.i.toNat + k))) s
    t = { s with x := t.x } ∧
      ∀ r : Reg, t.reg r = if r.val < n then Memory.read s.mem (s.i.toNat + r.val) else s.reg r := by
  induction n with
  | zero => simp
  | succ n ih =>
    have ih := ih (by omega)
    simp only [List.range_succ, List.foldl_append, List.foldl_cons, List.foldl_nil] at ih ⊢
    refine ⟨by conv_lhs => rw [ih.1]
               rfl, fun r => ?_⟩
    rw [State.reg_setReg, ih.2 r]
    have hv : (Fin.ofNat 16 n).val = n := by simp only [Fin.val_ofNat]; omega
    by_cases hr : r = Fin.ofNat 16 n
    · have hrn : r.val = n := by rw [hr, hv]
      rw [if_pos hr, if_pos (by omega), hrn]
    · have hrn : r.val ≠ n := fun h => hr (Fin.ext (by rw [hv, h]))
      rw [if_neg hr]
      by_cases h : r.val < n
      · rw [if_pos h, if_pos (by omega)]
      · rw [if_neg h, if_neg (by omega)]

/-- A block load changes registers only (R105). -/
theorem State.loadRegsUpTo_eq (s : State) (x : Reg) :
    s.loadRegsUpTo x = { s with x := (s.loadRegsUpTo x).x } :=
  (State.loadFold_spec s (x.val + 1) (by omega)).1

/-- A block load: registers 0 to `X` from memory, the others as before (R105). -/
theorem State.reg_loadRegsUpTo (s : State) (x r : Reg) :
    (s.loadRegsUpTo x).reg r =
      if r.val ≤ x.val then Memory.read s.mem (s.i.toNat + r.val) else s.reg r := by
  simp only [← Nat.lt_succ_iff]
  exact (State.loadFold_spec s (x.val + 1) (by omega)).2 r

/-! ### What every instruction leaves alone -/

/-- No instruction is refused. -/
theorem exec_not_refused (i : Instr) (s : State) (r : Refusal) : exec i s ≠ .refused r := by
  cases i <;>
    simp only [exec, execClearScreen, execDraw, execReturn, execJump, execCall, execSkipEqImm,
      execSkipNeqImm, execSkipEqReg, execSkipNeqReg, execJumpOffset, execLoadImm, execAddImm,
      execLoadReg, execOr, execAnd, execXor, execAddReg, execSub, execShr, execSubn, execShl, execRand,
      execLoadIndex, execAddIndex, execFontChar, execBcd, execStoreRegs, execLoadRegs, execSkipKey,
      execSkipNotKey, execReadDelay, execWaitKey, execSetDelay, execSetSound, execNopUnmapped, ne_eq] <;>
    (repeat' split) <;> simp

/-- The fields no instruction touches: the fetched word, the latch, the inputs, the host's script. -/
structure SameOutside (s t : State) : Prop where
  ir : t.ir = s.ir
  faultCode : t.faultCode = s.faultCode
  faultPc : t.faultPc = s.faultPc
  key : t.key = s.key
  rnd : t.rnd = s.rnd
  script : t.script = s.script
  turn : t.turn = s.turn

theorem exec_sameOutside (i : Instr) (s t : State) (h : exec i s = .next t) : SameOutside s t := by
  cases i with
  | loadRegs x =>
    simp only [exec, execLoadRegs] at h
    split at h
    · cases h; rw [State.loadRegsUpTo_eq]; exact ⟨rfl, rfl, rfl, rfl, rfl, rfl, rfl⟩
    · cases h
  | waitKey x =>
    simp only [exec, execWaitKey, Host.Outcome.next.injEq] at h
    split at h <;> subst h <;> exact ⟨rfl, rfl, rfl, rfl, rfl, rfl, rfl⟩
  | draw | ret | call | bcd | storeRegs | skipKey | skipNotKey =>
    simp only [exec, execDraw, execReturn, execCall, execBcd, execStoreRegs, execSkipKey,
      execSkipNotKey] at h
    repeat' split at h
    all_goals cases h <;> exact ⟨rfl, rfl, rfl, rfl, rfl, rfl, rfl⟩
  | clearScreen | jump | skipEqImm | skipNeqImm | skipEqReg | loadImm | addImm | loadReg | orReg
  | andReg | xorReg | addReg | sub | shr | subn | shl | skipNeqReg | loadIndex | jumpOffset | rand
  | readDelay | setDelay | setSound | addIndex | fontChar | nopUnmapped =>
    cases h; exact ⟨rfl, rfl, rfl, rfl, rfl, rfl, rfl⟩

end Sys2Proof.Machine
end

