-- ==== Sys2Proof/Laws/Cycle.lean ====
section
/-!
SUPPORT. What one cycle, one turn of the host and one step can do, said once.
-/

namespace Sys2Proof.Machine

/-- The fetch succeeds exactly when `pc` is at most 4094 (R33, R61). -/
theorem State.fetchWord_eq_some (s : State) (w : Word) :
    s.fetchWord = some w ↔ s.pc.toNat ≤ 4094 ∧
      w = joinBytes (Memory.read s.mem s.pc.toNat) (Memory.read s.mem (s.pc.toNat + 1)) := by
  simp only [State.fetchWord, Config.lastFetch, Config.memSize, Config.instrBytes, Config.instrWidth,
    Config.regWidth]
  split
  · simp only [reduceCtorEq, false_iff]; omega
  · simp only [Option.some.injEq, eq_comm]; constructor
    · intro h; exact ⟨by omega, h⟩
    · exact fun h => h.2

theorem State.fetchWord_eq_none (s : State) : s.fetchWord = none ↔ s.pc.toNat > 4094 := by
  simp only [State.fetchWord]; split <;> simp_all

/-- The halted machine does nothing (R67). -/
theorem cycle_halted (s : State) (h : s.faultCode ≠ 0) : cycle s = .next s := by
  simp only [cycle, if_neg h]

/-- A running machine that can fetch executes the word it fetched (R60). -/
theorem cycle_fetched (s : State) (w : Word) (h : s.faultCode = 0) (hf : s.fetchWord = some w) :
    cycle s = finishCycle s (exec (decodeWord w) (s.advance w)) := by
  simp only [cycle, if_pos h, hf]

/-- Every way a cycle goes: halted, a fetch fault, a completed instruction with its tick, or a fault of
the instruction, taken from the state at the start of the cycle (R60, R66, R67). -/
theorem cycle_cases (s : State) :
    (s.faultCode ≠ 0 ∧ cycle s = .next s) ∨
    (s.faultCode = 0 ∧ s.pc.toNat > 4094 ∧ cycle s = .next (s.takeFault .fetchOutOfBounds)) ∨
    (∃ w t, s.faultCode = 0 ∧ s.fetchWord = some w ∧
      exec (decodeWord w) (s.advance w) = .next t ∧ cycle s = .next t.tick) ∨
    (∃ w f, s.faultCode = 0 ∧ s.fetchWord = some w ∧
      exec (decodeWord w) (s.advance w) = .fault f ∧ cycle s = .next (s.takeFault f)) := by
  by_cases h0 : s.faultCode = 0
  · right
    cases hw : s.fetchWord with
    | none =>
      exact .inl ⟨h0, s.fetchWord_eq_none.1 hw, by simp [cycle, h0, hw, finishCycle]⟩
    | some w =>
      right
      cases he : exec (decodeWord w) (s.advance w) with
      | next t => exact .inl ⟨w, t, h0, rfl, he, by simp [cycle, h0, hw, he, finishCycle]⟩
      | fault f => exact .inr ⟨w, f, h0, rfl, he, by simp [cycle, h0, hw, he, finishCycle]⟩
      | refused r => exact absurd he (exec_not_refused _ _ _)
  · exact .inl ⟨h0, cycle_halted s h0⟩

/-- Every way the host's turn goes: with a reset and load before its writes and inputs, or without. -/
theorem State.hostTurn_eq (s : State) :
    s.hostTurn =
      (match s.nextTurn.boot with
       | none => { s with script := s.script.tail, turn := s.turn + 1 }
       | some image =>
         { State.reset with
           mem := loadImage image, script := s.script.tail, turn := s.turn + 1 }).present s.nextTurn := by
  simp only [State.hostTurn, State.bootIf]
  cases s.nextTurn.boot <;> rfl

/-- With nothing scripted the next turn is free. -/
theorem State.nextTurn_nil (s : State) (h : s.script = []) : s.nextTurn = freeTurn s.turn := by
  simp [State.nextTurn, State.turnAt, h]

/-- The next turn of a script is its first. -/
theorem State.nextTurn_cons (s : State) (t : HostTurn) (rest : List HostTurn)
    (h : s.script = t :: rest) : s.nextTurn = t := by
  simp [State.nextTurn, State.turnAt, h]

/-- The host's turn uses up the script's first. -/
@[simp] theorem State.hostTurn_script (s : State) : s.hostTurn.script = s.script.tail := by
  rw [State.hostTurn_eq]; cases s.nextTurn.boot <;> rfl

/-- The host's turn counts itself. -/
@[simp] theorem State.hostTurn_turn (s : State) : s.hostTurn.turn = s.turn + 1 := by
  rw [State.hostTurn_eq]; cases s.nextTurn.boot <;> rfl

/-- After the host's turn its coming turns are the later of those before it. -/
theorem State.turnAt_hostTurn (s : State) (k : Nat) : s.hostTurn.turnAt k = s.turnAt (k + 1) := by
  have ht : s.turn + 1 + k = s.turn + (k + 1) := by omega
  simp only [State.turnAt, State.hostTurn_script, State.hostTurn_turn, ht]
  cases s.script <;> simp

/-- A cycle leaves the host's coming turns alone. -/
theorem cycle_turnAt (s t : State) (h : cycle s = .next t) (k : Nat) : t.turnAt k = s.turnAt k := by
  rcases cycle_cases s with ⟨_, hc⟩ | ⟨_, _, hc⟩ | ⟨w, v, _, _, hv, hc⟩ | ⟨_, _, _, _, _, hc⟩ <;>
    rw [hc] at h <;> cases h
  · rfl
  · rfl
  · have ho := exec_sameOutside _ _ _ hv
    simp only [State.turnAt, State.tick_script, State.tick_turn, ho.script, ho.turn,
      State.advance_script, State.advance_turn]
  · rfl

/-- So a step moves the host's turns on by one: a run without reset stays one. -/
theorem step_turnAt (s t : State) (h : step s = .next t) (k : Nat) : t.turnAt k = s.turnAt (k + 1) :=
  (cycle_turnAt _ _ h k).trans (s.turnAt_hostTurn k)

/-! ### Runs -/

/-- A step always answers a next state, so a run of `n + 1` steps is a step and a run of `n`. -/
theorem run_succ (n : Nat) (s u : State) (h : step s = .next u) :
    Host.Core.run Sys2Proof.core (n + 1) s = Host.Core.run Sys2Proof.core n u := by
  have h' : Sys2Proof.core.step s = .next u := h
  simp only [Host.Core.run, h']

/-- What a step keeps, a run keeps: the induction of every invariant, done once. -/
theorem run_induction (P : State → Prop) (hstep : ∀ s t, P s → step s = .next t → P t) (n : Nat)
    (s t : State) (hs : P s) (hr : Host.Core.run Sys2Proof.core n s = .next t) : P t := by
  induction n generalizing s with
  | zero => cases hr; exact hs
  | succ n ih =>
    cases hu : step s with
    | next u => exact ih u (hstep s u hs hu) (run_succ n s u hu ▸ hr)
    | fault f =>
      rcases cycle_cases s.hostTurn with ⟨_, h⟩ | ⟨_, _, h⟩ | ⟨_, _, _, _, _, h⟩ | ⟨_, _, _, _, _, h⟩ <;>
        simp [step, h] at hu
    | refused r =>
      rcases cycle_cases s.hostTurn with ⟨_, h⟩ | ⟨_, _, h⟩ | ⟨_, _, _, _, _, h⟩ | ⟨_, _, _, _, _, h⟩ <;>
        simp [step, h] at hu

end Sys2Proof.Machine
end

