-- ==== Sys2Proof/Laws/PerInstr.lean ====
section
/-!
SUPPORT. One law per constructor, about the instruction as syntax: its word matches its row of the opcode
map (30_encoding.md R59).
-/

namespace Sys2Proof.Laws.EncodesRow

/-- The word of a well-formed instruction matches the instruction's row (R59). -/
def Statement (i : Instr) : Prop :=
  i.wellFormed = true → encodeWord i &&& (opcodeRow i).mask = (opcodeRow i).pattern

/-! ### What the words of each format match -/

theorem wordNNN_row (op : Nat) (nnn : Addr) (p : Word) (hp : p.toNat = op * 0x1000)
    (hm : p &&& 0xF000 = p) :
    wordNNN op nnn &&& 0xF000 = p := by
  refine Eq.trans ((and_F000_eq_iff _ p).2 (BitVec.eq_of_toNat_eq ?_)) hm
  have := nnn.isLt
  simp only [fieldOP_toNat, wordNNN, BitVec.toNat_ofNat, hp]; omega

theorem wordXKK_row (op : Nat) (x : Reg) (kk : Nat) (p : Word) (hkk : kk < 256)
    (hp : p.toNat = op * 0x1000) (hm : p &&& 0xF000 = p) : wordXKK op x kk &&& 0xF000 = p := by
  refine Eq.trans ((and_F000_eq_iff _ p).2 (BitVec.eq_of_toNat_eq ?_)) hm
  have := x.isLt
  simp only [fieldOP_toNat, wordXKK, BitVec.toNat_ofNat, hp]; omega

theorem wordXYN_row (op : Nat) (x y : Reg) (n : Nat) (p : Word) (hn : n < 16)
    (hp : p.toNat = op * 0x1000) (hm : p &&& 0xF000 = p) : wordXYN op x y n &&& 0xF000 = p := by
  refine Eq.trans ((and_F000_eq_iff _ p).2 (BitVec.eq_of_toNat_eq ?_)) hm
  have := x.isLt; have := y.isLt
  simp only [fieldOP_toNat, wordXYN, BitVec.toNat_ofNat, hp]; omega

theorem wordXYN_selector_row (op : Nat) (x y : Reg) (n : Nat) (p : Word) (hn : n < 16)
    (hp : p.toNat = op * 0x1000 + n) (hm : p &&& 0xF00F = p) : wordXYN op x y n &&& 0xF00F = p := by
  refine Eq.trans ((and_F00F_eq_iff _ p).2 ⟨BitVec.eq_of_toNat_eq ?_, BitVec.eq_of_toNat_eq ?_⟩) hm
  all_goals
    have := x.isLt; have := y.isLt
    simp only [fieldOP_toNat, fieldN_toNat, wordXYN, BitVec.toNat_ofNat, hp]; omega

theorem wordXKK_nibble_row (op : Nat) (x : Reg) (kk : Nat) (p : Word) (hkk : kk < 256)
    (hp : p.toNat = op * 0x1000 + kk % 16) (hm : p &&& 0xF00F = p) :
    wordXKK op x kk &&& 0xF00F = p := by
  refine Eq.trans ((and_F00F_eq_iff _ p).2 ⟨BitVec.eq_of_toNat_eq ?_, BitVec.eq_of_toNat_eq ?_⟩) hm
  all_goals
    have := x.isLt
    simp only [fieldOP_toNat, fieldN_toNat, wordXKK, BitVec.toNat_ofNat, hp]; omega

theorem wordXKK_selector_row (op : Nat) (x : Reg) (kk : Nat) (p : Word) (hkk : kk < 256)
    (hp : p.toNat = op * 0x1000 + kk) (hm : p &&& 0xF0FF = p) : wordXKK op x kk &&& 0xF0FF = p := by
  refine Eq.trans ((and_F0FF_eq_iff _ p).2 ⟨BitVec.eq_of_toNat_eq ?_, BitVec.eq_of_toNat_eq ?_⟩) hm
  all_goals
    have := x.isLt
    simp only [fieldOP_toNat, fieldKK_toNat, wordXKK, BitVec.toNat_ofNat, hp]; omega

/-! ### The constructors -/

theorem clearScreen : Statement (.clearScreen) := fun _ => by decide

theorem ret : Statement (.ret) := fun _ => by decide

theorem jump (nnn : Addr) : Statement (.jump nnn) :=
  fun _ => wordNNN_row 0x1 nnn 0x1000 (by decide) (by decide)

theorem call (nnn : Addr) : Statement (.call nnn) :=
  fun _ => wordNNN_row 0x2 nnn 0x2000 (by decide) (by decide)

theorem skipEqImm (x : Reg) (kk : Byte) : Statement (.skipEqImm x kk) :=
  fun _ => wordXKK_row 0x3 x _ 0x3000 kk.isLt (by decide) (by decide)

theorem skipNeqImm (x : Reg) (kk : Byte) : Statement (.skipNeqImm x kk) :=
  fun _ => wordXKK_row 0x4 x _ 0x4000 kk.isLt (by decide) (by decide)

theorem skipEqReg (x : Reg) (y : Reg) : Statement (.skipEqReg x y) :=
  fun _ => wordXYN_row 0x5 x y _ 0x5000 (by decide) (by decide) (by decide)

theorem loadImm (x : Reg) (kk : Byte) : Statement (.loadImm x kk) :=
  fun _ => wordXKK_row 0x6 x _ 0x6000 kk.isLt (by decide) (by decide)

theorem addImm (x : Reg) (kk : Byte) : Statement (.addImm x kk) :=
  fun _ => wordXKK_row 0x7 x _ 0x7000 kk.isLt (by decide) (by decide)

theorem loadReg (x : Reg) (y : Reg) : Statement (.loadReg x y) :=
  fun _ => wordXYN_selector_row 0x8 x y 0x0 0x8000 (by decide) (by decide) (by decide)

theorem orReg (x : Reg) (y : Reg) : Statement (.orReg x y) :=
  fun _ => wordXYN_selector_row 0x8 x y 0x1 0x8001 (by decide) (by decide) (by decide)

theorem andReg (x : Reg) (y : Reg) : Statement (.andReg x y) :=
  fun _ => wordXYN_selector_row 0x8 x y 0x2 0x8002 (by decide) (by decide) (by decide)

theorem xorReg (x : Reg) (y : Reg) : Statement (.xorReg x y) :=
  fun _ => wordXYN_selector_row 0x8 x y 0x3 0x8003 (by decide) (by decide) (by decide)

theorem addReg (x : Reg) (y : Reg) : Statement (.addReg x y) :=
  fun _ => wordXYN_selector_row 0x8 x y 0x4 0x8004 (by decide) (by decide) (by decide)

theorem sub (x : Reg) (y : Reg) : Statement (.sub x y) :=
  fun _ => wordXYN_selector_row 0x8 x y 0x5 0x8005 (by decide) (by decide) (by decide)

theorem shr (x : Reg) : Statement (.shr x) :=
  fun _ => wordXYN_selector_row 0x8 x 0 0x6 0x8006 (by decide) (by decide) (by decide)

theorem subn (x : Reg) (y : Reg) : Statement (.subn x y) :=
  fun _ => wordXYN_selector_row 0x8 x y 0x7 0x8007 (by decide) (by decide) (by decide)

theorem shl (x : Reg) : Statement (.shl x) :=
  fun _ => wordXYN_selector_row 0x8 x 0 0xE 0x800E (by decide) (by decide) (by decide)

theorem skipNeqReg (x : Reg) (y : Reg) : Statement (.skipNeqReg x y) :=
  fun _ => wordXYN_row 0x9 x y _ 0x9000 (by decide) (by decide) (by decide)

theorem loadIndex (nnn : Addr) : Statement (.loadIndex nnn) :=
  fun _ => wordNNN_row 0xA nnn 0xA000 (by decide) (by decide)

theorem jumpOffset (nnn : Addr) : Statement (.jumpOffset nnn) :=
  fun _ => wordNNN_row 0xB nnn 0xB000 (by decide) (by decide)

theorem rand (x : Reg) (kk : Byte) : Statement (.rand x kk) :=
  fun _ => wordXKK_row 0xC x _ 0xC000 kk.isLt (by decide) (by decide)

theorem draw (x : Reg) (y : Reg) (n : Nibble) : Statement (.draw x y n) :=
  fun _ => wordXYN_row 0xD x y _ 0xD000 n.isLt (by decide) (by decide)

theorem skipNotKey (x : Reg) : Statement (.skipNotKey x) :=
  fun _ => wordXKK_nibble_row 0xE x 0xA1 0xE001 (by decide) (by decide) (by decide)

theorem skipKey (x : Reg) : Statement (.skipKey x) :=
  fun _ => wordXKK_nibble_row 0xE x 0x9E 0xE00E (by decide) (by decide) (by decide)

theorem readDelay (x : Reg) : Statement (.readDelay x) :=
  fun _ => wordXKK_selector_row 0xF x 0x07 0xF007 (by decide) (by decide) (by decide)

theorem waitKey (x : Reg) : Statement (.waitKey x) :=
  fun _ => wordXKK_selector_row 0xF x 0x0A 0xF00A (by decide) (by decide) (by decide)

theorem setDelay (x : Reg) : Statement (.setDelay x) :=
  fun _ => wordXKK_selector_row 0xF x 0x15 0xF015 (by decide) (by decide) (by decide)

theorem setSound (x : Reg) : Statement (.setSound x) :=
  fun _ => wordXKK_selector_row 0xF x 0x18 0xF018 (by decide) (by decide) (by decide)

theorem addIndex (x : Reg) : Statement (.addIndex x) :=
  fun _ => wordXKK_selector_row 0xF x 0x1E 0xF01E (by decide) (by decide) (by decide)

theorem fontChar (x : Reg) : Statement (.fontChar x) :=
  fun _ => wordXKK_selector_row 0xF x 0x29 0xF029 (by decide) (by decide) (by decide)

theorem bcd (x : Reg) : Statement (.bcd x) :=
  fun _ => wordXKK_selector_row 0xF x 0x33 0xF033 (by decide) (by decide) (by decide)

theorem storeRegs (x : Reg) : Statement (.storeRegs x) :=
  fun _ => wordXKK_selector_row 0xF x 0x55 0xF055 (by decide) (by decide) (by decide)

theorem loadRegs (x : Reg) : Statement (.loadRegs x) :=
  fun _ => wordXKK_selector_row 0xF x 0x65 0xF065 (by decide) (by decide) (by decide)

theorem nopUnmapped (w : Word) : Statement (.nopUnmapped w) := fun _ => BitVec.and_zero

end Sys2Proof.Laws.EncodesRow
end

