-- ==== Sys2Proof/Tests/Slice0.lean ====
section
/-!
SUPPORT. The model's own tests and the witnesses of its statements' hypotheses. A test's expected result
is a vector of spec/95_test_vectors.md, named by its number (S or T) in the comment; a word is written out
from the row of 30_encoding.md R59, field by field.
-/

namespace Sys2Proof.Tests

open Sys2Proof.Machine

/-! ### Ill-formed instructions are refused (R54) -/

/-- A no-op that carries a mapped word is ill-formed: one word of each group, at the edges of R54's lists. -/
theorem test_wellFormed_refuses_mapped_words :
    ([0x0000, 0x000E, 0x1000, 0x5007, 0x8000, 0x8007, 0x800E, 0xDFFF].all
      (fun w => (Instr.nopUnmapped w).wellFormed == false)) = true ∧
    ([0xE001, 0xE00E, 0xF007, 0xF00A, 0xF015, 0xF018, 0xF01E, 0xF029, 0xF033, 0xF055, 0xF065].all
      (fun w => (Instr.nopUnmapped w).wellFormed == false)) = true := by decide

/-- A no-op that carries an unmapped word is well formed (the no-ops of section 2.7). -/
theorem test_wellFormed_accepts_unmapped_words :
    ([0x0001, 0x00EF, 0x8008, 0x800F, 0xE000, 0xE09F, 0xF017, 0xF00B, 0xF02A, 0xF066, 0xFFFF].all
      (fun w => (Instr.nopUnmapped w).wellFormed)) = true := by decide

/-- Bytes that end inside a word are refused (R45). -/
theorem test_decode_refuses_truncated_bytes :
    decode [] = .error .truncated ∧ decode [0x61] = .error .truncated := ⟨rfl, rfl⟩

/-- The byte at the lower address is the high byte, and what follows is left (R33; T1's word). -/
theorem test_decode_reads_high_byte_first :
    decode [0x61, 0x55, 0xAA] = .ok (.loadImm 1 0x55, [0xAA]) := rfl

/-! ### Every constructor's decoding, from a word written out bit by bit (R46, R59) -/

theorem test_decode_clearScreen : decodeWord 0b0000_1010_0101_0000 = .clearScreen := by decide
theorem test_decode_ret : decodeWord 0b0000_1011_1110_1110 = .ret := by decide
theorem test_decode_jump : decodeWord 0b0001_0010_1010_1000 = .jump 0x2A8 := by decide
theorem test_decode_call : decodeWord 0b0010_1010_1011_1100 = .call 0xABC := by decide
theorem test_decode_skipEqImm : decodeWord 0b0011_0001_0100_0010 = .skipEqImm 1 0x42 := by decide
theorem test_decode_skipNeqImm : decodeWord 0b0100_1110_1000_0001 = .skipNeqImm 14 0x81 := by decide
theorem test_decode_skipEqReg : decodeWord 0b0101_1001_0110_0011 = .skipEqReg 9 6 := by decide
theorem test_decode_loadImm : decodeWord 0b0110_0011_1011_1011 = .loadImm 3 0xBB := by decide
theorem test_decode_addImm : decodeWord 0b0111_1111_0000_0001 = .addImm 15 0x01 := by decide
theorem test_decode_loadReg : decodeWord 0b1000_1111_0010_0000 = .loadReg 15 2 := by decide
theorem test_decode_orReg : decodeWord 0b1000_0001_0010_0001 = .orReg 1 2 := by decide
theorem test_decode_andReg : decodeWord 0b1000_0011_1100_0010 = .andReg 3 12 := by decide
theorem test_decode_xorReg : decodeWord 0b1000_0101_1010_0011 = .xorReg 5 10 := by decide
theorem test_decode_addReg : decodeWord 0b1000_1000_0111_0100 = .addReg 8 7 := by decide
theorem test_decode_sub : decodeWord 0b1000_0001_1111_0101 = .sub 1 15 := by decide
theorem test_decode_shr : decodeWord 0b1000_0001_0111_0110 = .shr 1 := by decide
theorem test_decode_subn : decodeWord 0b1000_1111_0001_0111 = .subn 15 1 := by decide
theorem test_decode_shl : decodeWord 0b1000_1001_1111_1110 = .shl 9 := by decide
theorem test_decode_skipNeqReg : decodeWord 0b1001_0001_0010_1111 = .skipNeqReg 1 2 := by decide
theorem test_decode_loadIndex : decodeWord 0b1010_0001_0010_0011 = .loadIndex 0x123 := by decide
theorem test_decode_jumpOffset : decodeWord 0b1011_0010_0001_0000 = .jumpOffset 0x210 := by decide
theorem test_decode_rand : decodeWord 0b1100_0001_0000_1111 = .rand 1 0x0F := by decide
theorem test_decode_draw : decodeWord 0b1101_0010_1001_0110 = .draw 2 9 6 := by decide
theorem test_decode_skipNotKey : decodeWord 0b1110_0101_1010_0001 = .skipNotKey 5 := by decide
theorem test_decode_skipKey : decodeWord 0b1110_0101_1001_1110 = .skipKey 5 := by decide
theorem test_decode_readDelay : decodeWord 0b1111_1010_0000_0111 = .readDelay 10 := by decide
theorem test_decode_waitKey : decodeWord 0b1111_0011_0000_1010 = .waitKey 3 := by decide
theorem test_decode_setDelay : decodeWord 0b1111_0110_0001_0101 = .setDelay 6 := by decide
theorem test_decode_setSound : decodeWord 0b1111_1100_0001_1000 = .setSound 12 := by decide
theorem test_decode_addIndex : decodeWord 0b1111_0111_0001_1110 = .addIndex 7 := by decide
theorem test_decode_fontChar : decodeWord 0b1111_1011_0010_1001 = .fontChar 11 := by decide
theorem test_decode_bcd : decodeWord 0b1111_1101_0011_0011 = .bcd 13 := by decide
theorem test_decode_storeRegs : decodeWord 0b1111_1110_0101_0101 = .storeRegs 14 := by decide
theorem test_decode_loadRegs : decodeWord 0b1111_1000_0110_0101 = .loadRegs 8 := by decide
theorem test_decode_nopUnmapped :
    decodeWord 0b1000_0001_0010_1000 = .nopUnmapped 0x8128 := by decide

/-- Conventional spellings (R57): the words of programs P2, P3, P5 and P9. -/
theorem test_encode_conventional_spelling :
    encode .ret = [0x00, 0xEE] ∧ encode (.skipKey 0) = [0xE0, 0x9E] ∧
    encode (.addReg 1 0) = [0x81, 0x04] ∧ encode (.draw 3 3 5) = [0xD3, 0x35] ∧
    encode (.waitKey 2) = [0xF2, 0x0A] ∧ encode (.shr 0) = [0x80, 0x06] := by decide

/-- The table's bit numbering is the hardware's: the numbered word is the instruction's word. -/
theorem test_decodeTableWord :
    decodeTableWord 16 0x8125 = some (.sub 1 2) ∧ decodeTableWord 16 0x2ABC = some (.call 0xABC) := by
  decide

/-! ### Small states, one cycle, and what to look at -/

def withRegs (rs : List (Reg × Byte)) (s : State) : State :=
  rs.foldl (fun t p => t.setReg p.1 p.2) s

def withBytes (a : Nat) (bs : List Byte) (s : State) : State :=
  s.setMem (Memory.writeBlock s.mem a bs)

def withLit (cells : List (Nat × Nat)) (s : State) : State :=
  s.setFrame (cells.foldl Frame.toggle s.fb)

/-- The state an outcome has; a test that looks for more than reset values fails where it has none. -/
def after (o : Host.Outcome State Fault Refusal) : State :=
  match o with
  | .next t => t
  | .fault _ => State.reset
  | .refused _ => State.reset

/-- The start state of section 2: reset, edited, with the word at 0x200. -/
def start (w : Word) (edit : State → State) : State := withBytes 0x200 (wordBytes w) (edit State.reset)

def oneCycle (w : Word) (edit : State → State) : State := after (cycle (start w edit))

def seeRegs (rs : List Reg) (t : State) : List Nat := rs.map (fun r => (t.reg r).toNat)

def seeBytes (a n : Nat) (t : State) : List Nat := (Memory.readBlock t.mem a n).map BitVec.toNat

/-- The cells that are on in rows `r` to `r + n - 1`. -/
def seeLit (r n : Nat) (t : State) : List (Nat × Nat) :=
  (List.range n).flatMap fun k =>
    ((List.range 64).filter (fun c => Frame.cell t.fb (r + k) c)).map (fun c => (r + k, c))

/-- The fault code, the fault address and `pc`. -/
def seeLatch (t : State) : List Nat := [t.faultCode.toNat, t.faultPc.toNat, t.pc.toNat]

/-! ### Display -/

/-- T20: every cell goes off; `VF` stays 1. -/
theorem test_clearScreen :
    let t := oneCycle 0x00E0 (fun s => withRegs [(15, 1)] (withLit [(0, 0), (31, 63)] s))
    seeLit 0 1 t ++ seeLit 31 1 t = [] ∧ seeRegs [15] t = [1] ∧ t.pc = 0x202 := by decide

/-- T43 with T24's bit order: the column is the old `VF`; the lit cell goes off and `VF` is the collision. -/
theorem test_draw_column_register_is_vf :
    let t := oneCycle 0xDF11 (fun s =>
      withRegs [(15, 10), (1, 3)] (withLit [(3, 10)] (withBytes 0x300 [0x81] (s.setIndex 0x300))))
    seeLit 2 3 t = [(3, 17)] ∧ seeRegs [15] t = [1] := by decide

/-- T31: a bit of 1 for column 64 faults, and no cell is written. -/
theorem test_draw_outside_grid :
    let t := oneCycle 0xD011 (fun s =>
      withRegs [(0, 62), (1, 31)] (withBytes 0x300 [0xA0] (s.setIndex 0x300)))
    seeLatch t = [5, 0x200, 0x200] ∧ seeLit 31 1 t = [] := by decide

/-! ### Control transfer -/

/-- T57: the entry below `sp` is popped, and the entries stay. -/
theorem test_return :
    let t := oneCycle 0x00EE (fun s =>
      { s with sp := 2, stack := (s.stack.set 0 0x0ABC).set 1 0x0456 })
    t.sp = 1 ∧ t.pc = 0x456 ∧ t.stackEntry 0 = 0xABC ∧ t.stackEntry 1 = 0x456 := by decide

/-- T59: an empty stack faults. -/
theorem test_return_underflow : seeLatch (oneCycle 0x00EE id) = [3, 0x200, 0x200] := by decide

/-- T52: an odd target is accepted. -/
theorem test_jump : (oneCycle 0x1301 id).pc = 0x301 := by decide

/-- T55: the sixteenth entry is legal. -/
theorem test_call :
    let t := oneCycle 0x2ABC (fun s => { s with sp := 15 })
    t.stackEntry 15 = 0x202 ∧ t.sp = 16 ∧ t.pc = 0xABC := by decide

/-- T56: the seventeenth faults. -/
theorem test_call_overflow :
    seeLatch (oneCycle 0x2ABC (fun s => { s with sp := 16 })) = [2, 0x200, 0x200] := by decide

/-- T60, T61. -/
theorem test_skipEqImm :
    (oneCycle 0x3142 (withRegs [(1, 0x42)])).pc = 0x204 ∧
    (oneCycle 0x3142 (withRegs [(1, 0x43)])).pc = 0x202 := by decide

/-- T62, T63. -/
theorem test_skipNeqImm :
    (oneCycle 0x4142 (withRegs [(1, 0x42)])).pc = 0x202 ∧
    (oneCycle 0x4142 (withRegs [(1, 0x43)])).pc = 0x204 := by decide

/-- T66, T65. -/
theorem test_skipEqReg :
    (oneCycle 0x5127 (withRegs [(1, 7), (2, 7)])).pc = 0x204 ∧
    (oneCycle 0x5120 (withRegs [(1, 7), (2, 8)])).pc = 0x202 := by decide

/-- T68, T70. -/
theorem test_skipNeqReg :
    (oneCycle 0x9120 (withRegs [(1, 7), (2, 7)])).pc = 0x202 ∧
    (oneCycle 0x912F (withRegs [(1, 7), (2, 8)])).pc = 0x204 := by decide

/-- T74: the register is `x[0]`, not `x[2]`. -/
theorem test_jumpOffset : (oneCycle 0xB210 (withRegs [(0, 4), (2, 0x90)])).pc = 0x214 := by decide

/-- T75: no 12-bit mask. -/
theorem test_jumpOffset_no_mask :
    seeLatch (oneCycle 0xBFFF (withRegs [(0, 0xFF)])) = [0, 0, 0x10FE] := by decide

/-! ### Loads, arithmetic and logic, random -/

/-- T80. -/
theorem test_loadImm :
    seeRegs [10, 15] (oneCycle 0x6A5C (withRegs [(10, 0xFF), (15, 7)])) = [0x5C, 7] := by decide

/-- T81: no flag. -/
theorem test_addImm : seeRegs [1, 15] (oneCycle 0x7101 (withRegs [(1, 0xFF)])) = [0, 0] := by decide

/-- T83: the destination is `VF`. -/
theorem test_addImm_vf : seeRegs [15] (oneCycle 0x7F01 (withRegs [(15, 0xFF)])) = [0] := by decide

/-- T84. -/
theorem test_loadReg :
    seeRegs [1, 2, 15] (oneCycle 0x8120 (withRegs [(1, 0xF0), (2, 0x3C), (15, 7)])) =
      [0x3C, 0x3C, 7] := by decide

/-- T86. -/
theorem test_orReg :
    seeRegs [1, 15] (oneCycle 0x8121 (withRegs [(1, 0xF0), (2, 0x3C), (15, 7)])) = [0xFC, 7] := by
  decide

/-- T87. -/
theorem test_andReg :
    seeRegs [1, 15] (oneCycle 0x8122 (withRegs [(1, 0xF0), (2, 0x3C), (15, 7)])) = [0x30, 7] := by
  decide

/-- T88. -/
theorem test_xorReg :
    seeRegs [1, 15] (oneCycle 0x8123 (withRegs [(1, 0xF0), (2, 0x3C), (15, 7)])) = [0xCC, 7] := by
  decide

/-- S2: the source's own example. -/
theorem test_addReg :
    seeRegs [1, 2, 15] (oneCycle 0x8124 (withRegs [(1, 250), (2, 10)])) = [4, 10, 1] := by decide

/-- T97: the carry is overwritten by the sum. -/
theorem test_addReg_vf :
    seeRegs [1, 15] (oneCycle 0x8F14 (withRegs [(15, 200), (1, 100)])) = [100, 0x2C] := by decide

/-- S3: the source's own example. -/
theorem test_sub :
    seeRegs [1, 2, 15] (oneCycle 0x8125 (withRegs [(1, 5), (2, 10), (15, 1)])) = [0xFB, 10, 0] := by
  decide

/-- T106, T104: `X` and `Y` are read again after the flag write. -/
theorem test_sub_vf :
    seeRegs [15] (oneCycle 0x8F15 (withRegs [(15, 9), (1, 4)])) = [0xFD] ∧
    seeRegs [1, 15] (oneCycle 0x81F5 (withRegs [(1, 5), (15, 3)])) = [4, 1] := by decide

/-- T116: `Y` takes no part. -/
theorem test_shr :
    seeRegs [1, 7, 15] (oneCycle 0x8176 (withRegs [(1, 3), (7, 0xAA)])) = [1, 0xAA, 1] := by decide

/-- T121. -/
theorem test_shr_vf : seeRegs [15] (oneCycle 0x8F06 (withRegs [(15, 7)])) = [0] := by decide

/-- T109, T111: strict comparison. -/
theorem test_subn :
    seeRegs [1, 15] (oneCycle 0x8127 (withRegs [(1, 5), (2, 10)])) = [5, 1] ∧
    seeRegs [1, 15] (oneCycle 0x8127 (withRegs [(1, 7), (2, 7), (15, 1)])) = [0, 0] := by decide

/-- T114, T113. -/
theorem test_subn_vf :
    seeRegs [15] (oneCycle 0x8F17 (withRegs [(15, 4), (1, 9)])) = [8] ∧
    seeRegs [1, 15] (oneCycle 0x81F7 (withRegs [(1, 2), (15, 3)])) = [0xFF, 1] := by decide

/-- T122. -/
theorem test_shl : seeRegs [1, 15] (oneCycle 0x810E (withRegs [(1, 0x81)])) = [2, 1] := by decide

/-- T125. -/
theorem test_shl_vf : seeRegs [15] (oneCycle 0x8F0E (withRegs [(15, 0xC0)])) = [2] := by decide

/-- T127. -/
theorem test_rand :
    seeRegs [1, 15] (oneCycle 0xC10F (fun s => { withRegs [(1, 0x55), (15, 3)] s with rnd := 0xA7 })) =
      [7, 3] := by decide

/-! ### Index register and memory -/

/-- T140. -/
theorem test_loadIndex : (oneCycle 0xA123 id).i = 0x123 := by decide

/-- T141, T143: no 12-bit mask, and 65536 wraps. -/
theorem test_addIndex :
    (oneCycle 0xF11E (fun s => withRegs [(1, 0x20)] (s.setIndex 0xFF0))).i = 0x1010 ∧
    (oneCycle 0xF11E (fun s => withRegs [(1, 2)] (s.setIndex 0xFFFF))).i = 0x0001 := by decide

/-- T145, T148: the whole byte counts. -/
theorem test_fontChar :
    (oneCycle 0xF129 (withRegs [(1, 0x0A)])).i = 0x82 ∧
    (oneCycle 0xF129 (withRegs [(1, 0xFF)])).i = 0x54B := by decide

/-- T153: the highest legal `I`. -/
theorem test_bcd :
    seeBytes 0xFFC 4 (oneCycle 0xF133 (fun s => withRegs [(1, 209)] (s.setIndex 0xFFD))) =
      [0, 2, 0, 9] := by decide

/-- T154: one further faults with nothing stored. -/
theorem test_bcd_out_of_memory :
    let t := oneCycle 0xF133 (fun s => withRegs [(1, 209)] (s.setIndex 0xFFE))
    seeLatch t = [4, 0x200, 0x200] ∧ seeBytes 0xFFE 2 t = [0, 0] := by decide

/-- T157: the byte past register `X` and `I` stay. -/
theorem test_storeRegs :
    let t := oneCycle 0xF255 (fun s => withRegs [(0, 0x11), (1, 0x22), (2, 0x33), (3, 0x44)]
      (withBytes 0x403 [0xEE] (s.setIndex 0x400)))
    seeBytes 0x400 4 t = [0x11, 0x22, 0x33, 0xEE] ∧ t.i = 0x400 := by decide

/-- T160: sixteen registers from 0xFF1 fault. -/
theorem test_storeRegs_out_of_memory :
    let t := oneCycle 0xFF55 (fun s => withRegs [(0, 0xA0)] (s.setIndex 0xFF1))
    seeLatch t = [4, 0x200, 0x200] ∧ seeBytes 0xFF1 2 t = [0, 0] := by decide

/-- T161: the registers above `X` and `I` stay. -/
theorem test_loadRegs :
    let t := oneCycle 0xF265 (fun s => withRegs [(0, 9), (1, 9), (2, 9), (3, 9)]
      (withBytes 0x400 [1, 2, 3, 4] (s.setIndex 0x400)))
    seeRegs [0, 1, 2, 3] t = [1, 2, 3, 9] ∧ t.i = 0x400 := by decide

/-- T164, T165: no partial load; the first font byte. -/
theorem test_loadRegs_edges :
    seeRegs [0, 1] (oneCycle 0xF165 (fun s => withRegs [(0, 9), (1, 9)] (s.setIndex 0xFFF))) = [9, 9] ∧
    seeRegs [0] (oneCycle 0xF065 (fun s => s.setIndex 0x050)) = [0xF0] := by decide

/-! ### Keypad and timers -/

/-- T170, T171. -/
theorem test_skipKey :
    (oneCycle 0xE19E (fun s => { withRegs [(1, 5)] s with key := 0x0020 })).pc = 0x204 ∧
    (oneCycle 0xE19E (fun s => { withRegs [(1, 5)] s with key := 0xFFDF })).pc = 0x202 := by decide

/-- T174: not masked to key 5. -/
theorem test_skipKey_no_key :
    seeLatch (oneCycle 0xE19E (fun s => { withRegs [(1, 0x15)] s with key := 0xFFFF })) =
      [6, 0x200, 0x200] := by decide

/-- T175, T176. -/
theorem test_skipNotKey :
    (oneCycle 0xE1A1 (fun s => { withRegs [(1, 0x0F)] s with key := 0x8000 })).pc = 0x202 ∧
    (oneCycle 0xE1A1 (withRegs [(1, 0x0F)])).pc = 0x204 := by decide

/-- T178. -/
theorem test_skipNotKey_no_key :
    seeLatch (oneCycle 0xE1A1 (withRegs [(1, 255)])) = [6, 0x200, 0x200] := by decide

/-- T179: the value before the tick. -/
theorem test_readDelay :
    let t := oneCycle 0xF107 (fun s => { s with dt := 7, st := 3 })
    seeRegs [1] t = [7] ∧ t.dt = 6 ∧ t.st = 2 := by decide

/-- S7: with no key pressed the cycle leaves `pc`, and the timer ticks. -/
theorem test_waitKey_waits :
    let t := oneCycle 0xF30A (fun s => { withRegs [(3, 0x77)] s with dt := 4 })
    t.pc = 0x200 ∧ seeRegs [3] t = [0x77] ∧ t.dt = 3 := by decide

/-- T182: the lowest of keys 7 and 9. -/
theorem test_waitKey_lowest :
    let t := oneCycle 0xF30A (fun s => { withRegs [(3, 0x77)] s with key := 0x0280 })
    t.pc = 0x202 ∧ seeRegs [3] t = [7] := by decide

/-- T185, T187: written, then ticked. -/
theorem test_setDelay :
    (oneCycle 0xF115 (withRegs [(1, 5)])).dt = 4 ∧
    (oneCycle 0xF115 (fun s => { s with dt := 9 })).dt = 0 := by decide

/-- T188. -/
theorem test_setSound : (oneCycle 0xF118 (withRegs [(1, 5)])).st = 4 := by decide

/-! ### The no-op and the cycle -/

/-- T7: registers stay, the tick happens. -/
theorem test_nopUnmapped :
    let t := oneCycle 0x8128 (fun s => { withRegs [(1, 1), (2, 2), (15, 3)] s with dt := 2 })
    seeRegs [1, 2, 15] t = [1, 2, 3] ∧ t.dt = 1 ∧ t.pc = 0x202 := by decide

/-- T9: an unmapped word of group 0xE looks at no key number. -/
theorem test_nopUnmapped_no_key_fault :
    seeLatch (oneCycle 0xE102 (withRegs [(1, 0xFF)])) = [0, 0, 0x202] := by decide

/-- T2: a fetch from an odd address. -/
theorem test_fetch_odd_address :
    let t := after (cycle (withBytes 0x200 [0x12, 0x61, 0x77, 0x99] (State.reset.setPc 0x201)))
    t.ir = 0x6177 ∧ seeRegs [1] t = [0x77] ∧ t.pc = 0x203 := by decide

/-- T4, T5: an unfetchable `pc` faults, with no tick and `ir` kept. -/
theorem test_fetch_out_of_memory :
    seeLatch (after (cycle (State.reset.setPc 0xFFF))) = [1, 0xFFF, 0xFFF] ∧
    (after (cycle ((State.reset.setPc 0x1000).setDelay 5))).dt = 5 := by decide

/-- The next step runs a placed word, as the first instruction after reset (S1's word). -/
theorem test_step_runs_placed_word :
    let t := after (step (State.reset.withFetchWord 16 0x6A5C))
    seeRegs [10] t = [0x5C] ∧ t.pc = 0x202 ∧ t.ir = 0x6A5C := by decide

/-- The word runs whatever the host does in its turn to the inputs and timers: past the script the timer
the host may have written (R139) is a free value, and only its own field shows it. -/
theorem test_step_unscripted_timer_is_free :
    let s := (State.reset.setDelay 5).withFetchWord 16 0xF107
    (after (step s)).reg 1 = (Config.freeDelay 0).getD 5 := rfl

/-- A host turn that resets and loads S1's first word, writes `dt` and presents inputs; then the cycle. -/
theorem test_step_boots_program :
    let t := after (step { State.reset with
      faultCode := 2
      script := [⟨some [0x6A, 0x5C], some 9, none, 0x0020, 0xA7⟩] })
    seeRegs [10] t = [0x5C] ∧ t.dt = 8 ∧ t.faultCode = 0 ∧ t.key = 0x0020 ∧ t.script = [] := by decide

/-! ### Witnesses: states and operands that meet the hypotheses of each statement, clause by clause -/

/-- Every statement with a clause on words: a word that matches the row, with the ignored bits not 0. -/
theorem witness_rows :
    (0x0FF0 : Word) &&& 0xF00F = 0x0000 ∧ (0x012E : Word) &&& 0xF00F = 0x000E ∧
    (0x1FFF : Word) &&& 0xF000 = 0x1000 ∧ (0x2FFF : Word) &&& 0xF000 = 0x2000 ∧
    (0x3FFF : Word) &&& 0xF000 = 0x3000 ∧ (0x4FFF : Word) &&& 0xF000 = 0x4000 ∧
    (0x5FFF : Word) &&& 0xF000 = 0x5000 ∧ (0x6FFF : Word) &&& 0xF000 = 0x6000 ∧
    (0x7FFF : Word) &&& 0xF000 = 0x7000 ∧ (0x9FFF : Word) &&& 0xF000 = 0x9000 ∧
    (0xAFFF : Word) &&& 0xF000 = 0xA000 ∧ (0xBFFF : Word) &&& 0xF000 = 0xB000 ∧
    (0xCFFF : Word) &&& 0xF000 = 0xC000 ∧ (0xDFFF : Word) &&& 0xF000 = 0xD000 := by decide

/-- The same for the rows of groups 0x8, 0xE and 0xF. -/
theorem witness_selector_rows :
    (0x8FF0 : Word) &&& 0xF00F = 0x8000 ∧ (0x8FF1 : Word) &&& 0xF00F = 0x8001 ∧
    (0x8FF2 : Word) &&& 0xF00F = 0x8002 ∧ (0x8FF3 : Word) &&& 0xF00F = 0x8003 ∧
    (0x8FF4 : Word) &&& 0xF00F = 0x8004 ∧ (0x8FF5 : Word) &&& 0xF00F = 0x8005 ∧
    (0x8FF6 : Word) &&& 0xF00F = 0x8006 ∧ (0x8FF7 : Word) &&& 0xF00F = 0x8007 ∧
    (0x8FFE : Word) &&& 0xF00F = 0x800E ∧ (0xE0F1 : Word) &&& 0xF00F = 0xE001 ∧
    (0xE0FE : Word) &&& 0xF00F = 0xE00E ∧ (0xFF07 : Word) &&& 0xF0FF = 0xF007 ∧
    (0xFF0A : Word) &&& 0xF0FF = 0xF00A ∧ (0xFF15 : Word) &&& 0xF0FF = 0xF015 ∧
    (0xFF18 : Word) &&& 0xF0FF = 0xF018 ∧ (0xFF1E : Word) &&& 0xF0FF = 0xF01E ∧
    (0xFF29 : Word) &&& 0xF0FF = 0xF029 ∧ (0xFF33 : Word) &&& 0xF0FF = 0xF033 ∧
    (0xFF55 : Word) &&& 0xF0FF = 0xF055 ∧ (0xFF65 : Word) &&& 0xF0FF = 0xF065 := by decide

/-- The sprite bytes of the draw witnesses, at 0x300, drawn at column 63 and row 31 (T27, T28). -/
def corner (b : Byte) : State :=
  withRegs [(0, 255), (1, 255)] (withBytes 0x300 [b] (State.reset.setIndex 0x300))

theorem corner_bit (k j : Nat) (hk : k < (1 : Nibble).toNat) (hj : j < 8)
    (hb : (Memory.read (corner 0x80).mem ((corner 0x80).i.toNat + k)).getLsbD (7 - j) = true) :
    k = 0 ∧ j = 0 := by
  have hk0 : k = 0 := by simpa using hk
  subst hk0
  revert hb
  interval_cases j <;> decide

/-- `DrawXorsTheSprite`, its memory fault: the byte at 4096 (T39), and just none with `N` = 0 (T37). -/
theorem witness_draw_memory :
    ((2 : Nibble).toNat > 0 ∧
      (State.reset.setIndex 0xFFF).i.toNat + (2 : Nibble).toNat - 1 > 4095) ∧
    ((1 : Nibble).toNat = 0 ∨ (State.reset.setIndex 0xFFF).i.toNat + (1 : Nibble).toNat - 1 ≤ 4095) ∧
    ((0 : Nibble).toNat = 0 ∨ (State.reset.setIndex 0x2000).i.toNat + (0 : Nibble).toNat - 1 ≤ 4095) := by
  decide

/-- `DrawXorsTheSprite`, its grid fault: a bit of 1 on column 64 (T28). -/
theorem witness_draw_grid_fault : ∃ r c, SpriteOn (corner 0xC0) 0 1 1 r c ∧ (c > 63 ∨ r > 31) :=
  ⟨31, 64, ⟨0, 1, by decide, by decide, by decide, by decide, by decide⟩, by decide⟩

/-- `DrawXorsTheSprite`, it completes: the only bit of 1 is on the last cell (T27); off, or on. -/
theorem witness_draw_completes :
    (∀ r c, SpriteOn (corner 0x80) 0 1 1 r c → c ≤ 63 ∧ r ≤ 31) ∧
    (∃ r c, SpriteOn (withLit [(31, 63)] (corner 0x80)) 0 1 1 r c ∧
      Frame.cell (withLit [(31, 63)] (corner 0x80)).fb r c = true) ∧
    ¬ (∃ r c, SpriteOn (corner 0x80) 0 1 1 r c ∧ Frame.cell (corner 0x80).fb r c = true) := by
  refine ⟨?_, ⟨31, 63, ⟨0, 0, by decide, by decide, by decide, by decide, by decide⟩, by decide⟩, ?_⟩
  · rintro r c ⟨k, j, hk, hj, rfl, rfl, hb⟩
    obtain ⟨rfl, rfl⟩ := corner_bit k j hk hj hb
    decide
  · rintro ⟨r, c, ⟨k, j, hk, hj, rfl, rfl, hb⟩, hc⟩
    obtain ⟨rfl, rfl⟩ := corner_bit k j hk hj hb
    revert hc; decide

/-- `DrawTwiceRestoresTheScreen`: a draw that completes, with a cell that was off. -/
theorem witness_drawTwice :
    (0 : Reg) ≠ VF ∧ (1 : Reg) ≠ VF ∧ (∃ t, exec (.draw 0 1 1) (corner 0x80) = .next t) ∧
    ∃ r c, SpriteOn (corner 0x80) 0 1 1 r c ∧ Frame.cell (corner 0x80).fb r c = false :=
  ⟨by decide, by decide, ⟨_, rfl⟩, 31, 63, ⟨0, 0, by decide, by decide, by decide, by decide, by decide⟩,
    by decide⟩

/-- `DrawTwiceRestoresTheScreen`: a draw that completes, with no cell that was off (`N` = 0). -/
theorem witness_drawTwice_none_off :
    (∃ t, exec (.draw 0 1 0) (corner 0x80) = .next t) ∧
    ¬ ∃ r c, SpriteOn (corner 0x80) 0 1 0 r c ∧ Frame.cell (corner 0x80).fb r c = false :=
  ⟨⟨_, rfl⟩, fun ⟨_, _, ⟨k, _, hk, _⟩, _⟩ => absurd hk (by simp)⟩

/-- `ReturnPopsTheStack`: `sp` 0 and 1. `CallPushesTheReturnAddress`: `sp` 16 and 15. -/
theorem witness_stack :
    State.reset.sp.val = 0 ∧ ({ State.reset with sp := 1 } : State).sp.val ≠ 0 ∧
    ({ State.reset with sp := 16 } : State).sp.val = 16 ∧
    ({ State.reset with sp := 15 } : State).sp.val ≠ 16 ∧
    (2 : Nat) ≠ ({ State.reset with sp := 1 } : State).sp.val := by decide

/-- `CallThenReturnRestoresPc`: the last call that completes. -/
theorem witness_callThenReturn : ∃ t, exec (.call 0x300) { State.reset with sp := 15 } = .next t :=
  ⟨_, rfl⟩

/-- The four skips: equal and different. -/
theorem witness_skips :
    State.reset.reg 1 = 0 ∧ State.reset.reg 1 ≠ 1 ∧ State.reset.reg 1 = State.reset.reg 2 ∧
    (withRegs [(2, 1)] State.reset).reg 1 ≠ (withRegs [(2, 1)] State.reset).reg 2 := by decide

/-- The five statements with a flag `f`, and `X` that is not `VF`: both values of each flag. -/
theorem witness_flags :
    let s := withRegs [(1, 5), (2, 4)] State.reset
    (1 : Reg) ≠ VF ∧ (1 : Byte) = (if (s.reg 1).toNat > (s.reg 2).toNat then 1 else 0) ∧
    (0 : Byte) = (if (s.reg 2).toNat > (s.reg 1).toNat then 1 else 0) ∧
    (0 : Byte) = (if (s.reg 1).toNat > (s.reg 1).toNat then 1 else 0) ∧
    (1 : Byte) = (if (s.reg 1).getLsbD 0 then 1 else 0) ∧
    (0 : Byte) = (if (s.reg 1).getLsbD 7 then 1 else 0) := by decide

/-- `RegsBut` has a register it speaks of; `RandMasksTheRandomByte` has its random byte. -/
theorem witness_regsBut_rand :
    (2 : Reg) ∉ ([1, VF] : List Reg) ∧ ({ State.reset with rnd := 0xA7 } : State).rnd = 0xA7 := by decide

/-- `BcdStoresTheDigits`: `I` at 4093 and 4094; the bytes on both sides of the three. -/
theorem witness_bcd :
    (State.reset.setIndex 0xFFE).i.toNat + 2 > 4095 ∧ (State.reset.setIndex 0xFFD).i.toNat + 2 ≤ 4095 ∧
    0xFFC < (State.reset.setIndex 0xFFD).i.toNat ∧ 0x1000 > (State.reset.setIndex 0xFFD).i.toNat + 2 := by
  decide

/-- `StoreRegsStoresTheBlock`, `LoadRegsLoadsTheBlock`: `I + X` at 4095 and 4096; registers up to `X`, and
one above it; the bytes on both sides of the block. -/
theorem witness_registerBlock :
    (State.reset.setIndex 0xFF1).i.toNat + (15 : Reg).val > 4095 ∧
    (State.reset.setIndex 0xFF0).i.toNat + (15 : Reg).val ≤ 4095 ∧
    (15 : Reg) ≤ 15 ∧ (State.reset.setIndex 0xFF1).i.toNat + (14 : Reg).val ≤ 4095 ∧ (15 : Reg) > 14 ∧
    0xFF0 < (State.reset.setIndex 0xFF1).i.toNat ∧
    0x1000 > (State.reset.setIndex 0xFF1).i.toNat + (14 : Reg).val := by decide

/-- `StoreThenLoadRestoresRegisters`: a store that completes, then a change of the registers (S10). -/
theorem witness_storeThenLoad :
    ∃ t u : State, exec (.storeRegs 14) (State.reset.setIndex 0xFF1) = .next t ∧
      u = { t with x := u.x } ∧ u.reg 0 ≠ t.reg 0 :=
  ⟨_, withRegs [(0, 9)] (State.reset.setIndex 0xFF1), rfl, rfl, by decide⟩

/-- `SkipKeySkipsWhenPressed`, `SkipNotKeySkipsWhenReleased`: key numbers 15 and 16, pressed or not. -/
theorem witness_keys :
    let s := { withRegs [(1, 16), (2, 15)] State.reset with key := 0x8000 }
    (s.reg 1).toNat > 15 ∧ (s.reg 2).toNat ≤ 15 ∧ s.key.getLsbD (s.reg 2).toNat = true ∧
    State.reset.key.getLsbD (s.reg 2).toNat = false := by decide

/-- `WaitKeyWaitsOrLoadsTheLeastKey`: no key, the last key alone, and a key below the least one. -/
theorem witness_waitKey :
    State.reset.key = 0 ∧ ({ State.reset with key := 0x8000 } : State).key ≠ 0 ∧
    14 < (BitVec.ofNat 8 15).toNat := by decide

/-- The clauses on a whole cycle: a running state whose fetch reads the instruction, at the last address. -/
theorem witness_cycles :
    (([(0xF107, .readDelay 1), (0xF30A, .waitKey 3), (0xF115, .setDelay 1), (0xF118, .setSound 1),
        (0x800F, .nopUnmapped 0x800F)] : List (Nat × Instr)).all fun p =>
      let s := (State.reset.setPc 0xFFE).withFetchWord 16 p.1
      s.faultCode == 0 && s.fetchWord == some (BitVec.ofNat 16 p.1) &&
        decodeWord (BitVec.ofNat 16 p.1) == p.2 && s.key == 0) = true := by decide

/-- `UnmappedWordDoesNothing`, `OpcodeMapDecidesTheOperation`: a word that matches no row. -/
theorem witness_unmapped : ∀ row ∈ opcodeRows, (0x800F : Word) &&& row.mask ≠ row.pattern := by decide

/-- `OpcodeMapDecidesTheOperation`: a row, and a word that matches it. -/
theorem witness_opcodeMap :
    (⟨0xF00F, 0x8004⟩ : OpcodeRow) ∈ opcodeRows ∧ (0x8124 : Word) &&& 0xF00F = 0x8004 := by decide

/-- `IgnoredBitsAreIgnored`: a word and another that differs in ignored bits alone, for each clause. -/
theorem witness_ignoredBits :
    ((0x00EE : Word) &&& 0xF00F = 0x000E ∧ (0x0ABE : Word) &&& 0xF00F = (0x00EE : Word) &&& 0xF00F) ∧
    ((0x9120 : Word) &&& 0xF000 = 0x9000 ∧ (0x912F : Word) &&& 0xFFF0 = (0x9120 : Word) &&& 0xFFF0) ∧
    ((0x8106 : Word) &&& 0xF00F = 0x8006 ∧ (0x8176 : Word) &&& 0xFF0F = (0x8106 : Word) &&& 0xFF0F) ∧
    ((0xE19E : Word) &&& 0xF00F = 0xE00E ∧ (0xE10E : Word) &&& 0xFF0F = (0xE19E : Word) &&& 0xFF0F) := by
  decide

/-- `DecodeOfEncode`: the instruction whose well-formedness says something. -/
theorem witness_decodeOfEncode : (Instr.nopUnmapped 0x8008).wellFormed = true := by decide

/-- `StepRunsTheDecodedInstruction`: an instruction that completes, fetched at the last address. -/
theorem witness_stepRuns :
    let u := ((State.reset.setPc 0xFFE).withFetchWord 16 0x6A5C).hostTurn
    u.faultCode = 0 ∧ u.pc.toNat ≤ 4094 ∧
    decode [Memory.read u.mem u.pc.toNat, Memory.read u.mem (u.pc.toNat + 1)] =
      .ok (.loadImm 10 0x5C, []) ∧
    ∃ t, exec (.loadImm 10 0x5C) { u with ir := 0x6A5C, pc := u.pc + 2 } = .next t :=
  ⟨by decide, by decide, rfl, _, rfl⟩

/-- `StepRunsTheDecodedInstruction`: an instruction that faults. -/
theorem witness_stepRuns_fault :
    let u := (State.reset.withFetchWord 16 0x00EE).hostTurn
    u.faultCode = 0 ∧ u.pc.toNat ≤ 4094 ∧
    decode [Memory.read u.mem u.pc.toNat, Memory.read u.mem (u.pc.toNat + 1)] = .ok (.ret, []) ∧
    exec .ret { u with ir := 0x00EE, pc := u.pc + 2 } = .fault .stackUnderflow :=
  ⟨by decide, by decide, rfl, rfl⟩

/-- `StepRunsTheDecodedInstruction`: a halted state, and a `pc` one too high to fetch, after the turn. -/
theorem witness_stepRuns_stopped :
    let h := { State.reset with faultCode := 6, script := [⟨none, none, none, 0, 0⟩] }
    let s := { State.reset with pc := 0xFFF, script := [⟨none, none, none, 0, 0⟩] }
    h.hostTurn.faultCode ≠ 0 ∧ s.hostTurn.faultCode = 0 ∧ s.hostTurn.pc.toNat > 4094 := by decide

/-- `EveryCompletedCycleTicks`: a running machine and an instruction that completes. -/
theorem witness_completedCycle :
    let s := State.reset.withFetchWord 16 0xF115
    s.faultCode = 0 ∧ s.fetchWord = some 0xF115 ∧
    ∃ t, exec (decodeWord 0xF115) (s.advance 0xF115) = .next t := ⟨rfl, rfl, _, rfl⟩

/-- `FaultsArePrecise`: `pc` one too high to fetch. -/
theorem witness_fetchFault :
    (State.reset.setPc 0xFFF).faultCode = 0 ∧ (State.reset.setPc 0xFFF).pc.toNat > 4094 := by decide

/-- `FaultsArePrecise`: an instruction of each of the five faults. -/
theorem witness_instructionFaults :
    exec (.call 0x300) { State.reset with sp := 16 } = .fault .stackOverflow ∧
    exec .ret State.reset = .fault .stackUnderflow ∧
    exec (.bcd 1) (State.reset.setIndex 0xFFE) = .fault .memOutOfBounds ∧
    exec (.draw 0 1 1) (corner 0xC0) = .fault .drawOutOfGrid ∧
    exec (.skipKey 1) (withRegs [(1, 16)] State.reset) = .fault .keyIndexOutOfRange :=
  ⟨rfl, rfl, rfl, rfl, rfl⟩

/-- `FaultsArePrecise`: a running machine whose fetched instruction faults. -/
theorem witness_instructionFault_cycle :
    let s := State.reset.withFetchWord 16 0x00EE
    s.faultCode = 0 ∧ s.fetchWord = some 0x00EE ∧
    exec (decodeWord 0x00EE) (s.advance 0x00EE) = .fault .stackUnderflow := ⟨rfl, rfl, rfl⟩

/-- `HaltedUntilReset`: a halted state whose host writes a timer and does not reset. -/
theorem witness_halted :
    let s := { State.reset with faultCode := 6, script := [⟨none, some 9, none, 0xFFFF, 0⟩] }
    s.faultCode ≠ 0 ∧ NoResetFor 1 s :=
  ⟨by decide, fun k hk => by obtain rfl : k = 0 := by omega
                             rfl⟩

/-- `InvariantKeptByStep`: a state at the invariant's bounds. -/
def atBounds : State :=
  { State.reset with
    pc := 0x10FE, sp := 16, stack := Vector.replicate 16 0x1000, mem := [(0x04F, 1), (0xFFF, 0xFF)]
    script := [⟨none, some 9, none, 0x0020, 0xA7⟩] }

theorem witness_invariantKept : Inv atBounds ∧ ∃ t, step atBounds = .next t := by
  refine ⟨⟨by decide, by decide, fun j => ?_, by decide, fun _ => rfl, fun h => absurd rfl h⟩, _, rfl⟩
  simp only [State.stackEntry, atBounds]
  by_cases hj : j < 16
  · simp [hj]
  · simp [Vector.getElem?_eq_none (Nat.le_of_not_lt hj)]

/-- `ReachableBounds`: a state reached from reset by a step, and a halted one. -/
theorem witness_reachable :
    (∃ s, Reachable s ∧ s.halted) ∧ ∃ s, Reachable s ∧ s.reg 10 = 0x5C :=
  ⟨⟨_, ⟨[⟨some [0x00, 0xEE], none, none, 0, 0⟩], 1, rfl⟩, fun h => absurd h (by decide)⟩,
   ⟨_, ⟨[⟨some [0x6A, 0x5C], none, none, 0, 0⟩], 1, rfl⟩, by decide⟩⟩

/-- `OnlyBcdAndStoreRegsWriteMemory`, `SpecialStateHasItsOwnWriters`: an instruction that is none of the
writers and completes. -/
theorem witness_writers :
    (∃ t, exec (.addImm 1 7) State.reset = .next t) ∧ (∀ x, Instr.addImm 1 7 ≠ .bcd x) ∧
    (∀ x, Instr.addImm 1 7 ≠ .storeRegs x) ∧ Instr.addImm 1 7 ≠ .clearScreen ∧
    (∀ x y n, Instr.addImm 1 7 ≠ .draw x y n) ∧ (∀ nnn, Instr.addImm 1 7 ≠ .call nnn) ∧
    Instr.addImm 1 7 ≠ .ret ∧ (∀ nnn, Instr.addImm 1 7 ≠ .loadIndex nnn) ∧
    (∀ x, Instr.addImm 1 7 ≠ .addIndex x) ∧ (∀ x, Instr.addImm 1 7 ≠ .fontChar x) ∧
    (∀ x, Instr.addImm 1 7 ≠ .setDelay x) ∧ (∀ x, Instr.addImm 1 7 ≠ .setSound x) :=
  ⟨⟨_, rfl⟩, by simp⟩

/-- `RegistersAndTheFlag`: a flag that is 1, one that is 0, and registers that stay: `VF` of an instruction
that writes no flag, and another register of one that does. -/
theorem witness_registersAndTheFlag :
    let s := withRegs [(1, 255), (2, 1)] State.reset
    (∃ t, exec (.addReg 1 2) s = .next t) ∧ VF ∉ destRegs (.addReg 1 2) ∧
    sideFlag s (.addReg 1 2) = some ((s.reg 1).toNat + (s.reg 2).toNat > 255) ∧
    (s.reg 1).toNat + (s.reg 2).toNat > 255 ∧ ¬ (s.reg 3).toNat + (s.reg 2).toNat > 255 ∧
    (2 : Reg) ∉ destRegs (.addReg 1 2) ∧ (2 : Reg) ≠ VF ∧
    VF ∉ destRegs (.orReg 1 2) ∧ sideFlag s (.orReg 1 2) = none :=
  ⟨⟨_, rfl⟩, by decide, rfl, by decide, by decide, by decide, by decide, by decide, rfl⟩

/-- `InputsAndScratchAreNotRead`: an instruction each clause speaks of. -/
theorem witness_inputs :
    readsKey (.rand 1 7) = false ∧ (∀ x kk, Instr.waitKey 1 ≠ .rand x kk) ∧
    (∀ x, Instr.setDelay 1 ≠ .setSound x) := ⟨rfl, by simp, by simp⟩

/-- `ParkedStaysParked`: parked at the reset address (T51) and at the last address a word fits in. -/
theorem witness_parked :
    ParkedAt 0x200 (State.reset.withFetchWord 16 0x1200) ∧
    ParkedAt 0xFFE ((State.reset.setPc 0xFFE).withFetchWord 16 0x1FFE) :=
  ⟨⟨rfl, rfl, 0x1200, rfl, rfl⟩, rfl, rfl, 0x1FFE, rfl, rfl⟩

/-- `ResetState`: the addresses next to the font. -/
theorem witness_resetState : (0x04F < 0x050 ∨ 0x09F < 0x04F) ∧ (0x0A0 < 0x050 ∨ 0x09F < 0x0A0) := by
  decide

/-- `BootLoadsTheProgram`: the last byte that fits, of an image too long, and the bytes around an image. -/
theorem witness_boot :
    (3583 < (List.replicate 3585 (1 : Byte)).length ∧ 0x200 + 3583 ≤ 0xFFF) ∧
    (0x1FF < 0x200 ∨ 0x200 + [(0x12 : Byte), 0x00].length ≤ 0x1FF ∨ 0xFFF < 0x1FF) ∧
    (0x202 < 0x200 ∨ 0x200 + [(0x12 : Byte), 0x00].length ≤ 0x202 ∨ 0xFFF < 0x202) :=
  ⟨⟨by rw [List.length_replicate]; decide, by decide⟩, by decide, by decide⟩

/-- `BootLoadsTheProgram`: a halted state whose host resets in a turn that writes one timer and not the
other, each way. -/
theorem witness_boot_turn :
    let s := { State.reset with faultCode := 2, script := [⟨some [0x12, 0x00], some 9, none, 1, 0⟩] }
    let u := { State.reset with faultCode := 2, script := [⟨some [], none, some 3, 0, 0⟩] }
    s.nextTurn.boot = some [0x12, 0x00] ∧ s.nextTurn.delay = some 9 ∧ s.nextTurn.sound = none ∧
    u.nextTurn.boot = some [] ∧ u.nextTurn.delay = none ∧ u.nextTurn.sound = some 3 := by decide

/-- `HostTouchesOnlyInputsAndTimers`: a turn without a reset that writes one timer and not the other, each
way. -/
theorem witness_host :
    let s := { State.reset with script := [⟨none, some 9, none, 0x0020, 0xA7⟩] }
    let u := { State.reset with script := [⟨none, none, some 3, 0, 0⟩] }
    s.nextTurn.boot = none ∧ s.nextTurn.delay = some 9 ∧ s.nextTurn.sound = none ∧
    u.nextTurn.boot = none ∧ u.nextTurn.delay = none ∧ u.nextTurn.sound = some 3 := by decide

end Sys2Proof.Tests
end

namespace Sys2Proof.Machine

/-- Halted, a fetch fault, a completed instruction, or a fault of the instruction: each way a cycle goes
ends in a next state, a fault's being the latch (R60, R132; log entry 9). -/
theorem cycle_answers_next (s : State) : ∃ t, cycle s = .next t := by
  rcases cycle_cases s with ⟨_, halted⟩ | ⟨_, _, fetchFault⟩ | ⟨_, t, _, _, _, completed⟩ |
    ⟨_, f, _, _, _, instrFault⟩
  · exact ⟨s, halted⟩
  · exact ⟨s.takeFault .fetchOutOfBounds, fetchFault⟩
  · exact ⟨t.tick, completed⟩
  · exact ⟨s.takeFault f, instrFault⟩

/-- Settles O46: a step is the cycle that follows the host's turn, and every cycle answers a next state. -/
theorem stepAlwaysAnswersNext : Obligations.StepAlwaysAnswersNext :=
  fun s => cycle_answers_next s.hostTurn

end Sys2Proof.Machine

namespace Sys2Proof.Machine

/-! ### What a conditional instruction did, when it completed -/

/-- An outcome guarded by a fault otherwise: completion gives the guard and the state. -/
theorem next_of_guard {c : Prop} [Decidable c] {s t : State} {f : Fault}
    (h : (if c then Host.Outcome.next s else .fault f : Host.Outcome State Fault Refusal) = .next t) :
    c ∧ t = s := by
  split at h
  · next hc => cases h; exact ⟨hc, rfl⟩
  · cases h

/-- An outcome behind a fault's condition: completion gives that the condition fails, and the state. -/
theorem next_of_faultGuard {c : Prop} [Decidable c] {s t : State} {f : Fault}
    (h : (if c then .fault f else Host.Outcome.next s : Host.Outcome State Fault Refusal) = .next t) :
    ¬ c ∧ t = s := by
  split at h
  · cases h
  · next hc => cases h; exact ⟨hc, rfl⟩

section
variable {s t : State}

theorem exec_ret_next (h : exec .ret s = .next t) : s.sp.val ≠ 0 ∧ t = s.popToPc :=
  next_of_faultGuard h

theorem exec_call_next {nnn : Addr} (h : exec (.call nnn) s = .next t) :
    s.sp.val ≠ 16 ∧ t = (s.push s.pc).setPc (addrOperand nnn) :=
  next_of_faultGuard h

theorem exec_bcd_next {x : Reg} (h : exec (.bcd x) s = .next t) :
    blockFits s.i 3 = true ∧ t = s.storeAtIndex (bcdDigits (s.reg x)) :=
  next_of_guard h

theorem exec_storeRegs_next {x : Reg} (h : exec (.storeRegs x) s = .next t) :
    blockFits s.i (x.val + 1) = true ∧ t = s.storeAtIndex (s.regsUpTo x) :=
  next_of_guard h

theorem exec_loadRegs_next {x : Reg} (h : exec (.loadRegs x) s = .next t) :
    blockFits s.i (x.val + 1) = true ∧ t = s.loadRegsUpTo x :=
  next_of_guard h

theorem exec_skipKey_next {x : Reg} (h : exec (.skipKey x) s = .next t) :
    isKey (s.reg x) = true ∧ t = s.skipIf (keyPressed s.key (s.reg x).toNat) :=
  next_of_guard h

theorem exec_skipNotKey_next {x : Reg} (h : exec (.skipNotKey x) s = .next t) :
    isKey (s.reg x) = true ∧ t = s.skipIf (!keyPressed s.key (s.reg x).toNat) :=
  next_of_guard h

theorem exec_draw_next {x y : Reg} {n : Nibble} (h : exec (.draw x y n) s = .next t) :
    (blockFits s.i n.toNat = true ∧ (s.drawCells x y n).all inGrid = true) ∧
      t = (s.setReg VF (collisionFlag s.fb (s.drawCells x y n))).setFrame
        ((s.drawCells x y n).foldl Frame.toggle s.fb) := by
  simp only [exec, execDraw] at h
  split at h
  · next hfits =>
    obtain ⟨hgrid, ht⟩ := next_of_guard h
    exact ⟨⟨hfits, hgrid⟩, ht⟩
  · cases h

/-- `wait-key` completes in both of its cases: it waits, or it takes the least key (R113). -/
theorem exec_waitKey_next {x : Reg} (h : exec (.waitKey x) s = .next t) :
    (s.key = 0 ∧ t = s.setPc (s.pc - 2)) ∨ (s.key ≠ 0 ∧ t = s.setReg x (lowestKey s.key)) := by
  cases h
  by_cases hk : s.key = 0
  · exact .inl ⟨hk, if_pos hk⟩
  · exact .inr ⟨hk, if_neg hk⟩

end

/-! ### The fields each instruction writes -/

/-- `s`, but for the fields that instruction `i` may write, which are as in `t`. -/
def writtenBy (i : Instr) (s t : State) : State :=
  match i with
  | .clearScreen => { s with fb := t.fb }
  | .draw _ _ _ => { s with x := t.x, fb := t.fb }
  | .call _ => { s with stack := t.stack, sp := t.sp, pc := t.pc }
  | .ret => { s with sp := t.sp, pc := t.pc }
  | .jump _ | .jumpOffset _ | .skipEqImm _ _ | .skipNeqImm _ _ | .skipEqReg _ _ | .skipNeqReg _ _
  | .skipKey _ | .skipNotKey _ => { s with pc := t.pc }
  | .loadImm _ _ | .addImm _ _ | .loadReg _ _ | .orReg _ _ | .andReg _ _ | .xorReg _ _ | .addReg _ _
  | .sub _ _ | .shr _ | .subn _ _ | .shl _ | .rand _ _ | .readDelay _ | .loadRegs _ =>
    { s with x := t.x }
  | .waitKey _ => { s with x := t.x, pc := t.pc }
  | .loadIndex _ | .addIndex _ | .fontChar _ => { s with i := t.i }
  | .setDelay _ => { s with dt := t.dt }
  | .setSound _ => { s with st := t.st }
  | .bcd _ | .storeRegs _ => { s with mem := t.mem }
  | .nopUnmapped _ => s

/-- The frame of every instruction: one that completes leaves every field alone but those it writes. -/
theorem exec_writtenBy {i : Instr} {s t : State} (h : exec i s = .next t) : t = writtenBy i s t := by
  cases i with
  | ret => obtain ⟨_, rfl⟩ := exec_ret_next h; rfl
  | call nnn => obtain ⟨_, rfl⟩ := exec_call_next h; rfl
  | bcd x => obtain ⟨_, rfl⟩ := exec_bcd_next h; rfl
  | storeRegs x => obtain ⟨_, rfl⟩ := exec_storeRegs_next h; rfl
  | loadRegs x => obtain ⟨_, rfl⟩ := exec_loadRegs_next h; exact s.loadRegsUpTo_eq x
  | skipKey x => obtain ⟨_, rfl⟩ := exec_skipKey_next h; rfl
  | skipNotKey x => obtain ⟨_, rfl⟩ := exec_skipNotKey_next h; rfl
  | draw x y n => obtain ⟨_, rfl⟩ := exec_draw_next h; rfl
  | waitKey x => obtain ⟨_, rfl⟩ | ⟨_, rfl⟩ := exec_waitKey_next h <;> rfl
  | clearScreen | jump | skipEqImm | skipNeqImm | skipEqReg | loadImm | addImm | loadReg | orReg
  | andReg | xorReg | addReg | sub | shr | subn | shl | skipNeqReg | loadIndex | jumpOffset | rand
  | readDelay | setDelay | setSound | addIndex | fontChar | nopUnmapped => cases h; rfl

/-! ### The writers of each field, read off the frame -/

section
variable {i : Instr} {s t : State}

theorem exec_fb_of_not_writer (h : exec i s = .next t) (hclear : i ≠ .clearScreen)
    (hdraw : ∀ x y n, i ≠ .draw x y n) : t.fb = s.fb := by
  have hw := congrArg State.fb (exec_writtenBy h)
  cases i with
  | clearScreen => exact absurd rfl hclear
  | draw x y n => exact absurd rfl (hdraw x y n)
  | _ => exact hw

theorem exec_sp_of_not_writer (h : exec i s = .next t) (hcall : ∀ nnn, i ≠ .call nnn)
    (hret : i ≠ .ret) : t.sp = s.sp := by
  have hw := congrArg State.sp (exec_writtenBy h)
  cases i with
  | call nnn => exact absurd rfl (hcall nnn)
  | ret => exact absurd rfl hret
  | _ => exact hw

/-- Only `call` writes a stack entry: a `return` keeps the one it pops (R75). -/
theorem exec_stack_of_not_call (h : exec i s = .next t) (hcall : ∀ nnn, i ≠ .call nnn) :
    t.stack = s.stack := by
  have hw := congrArg State.stack (exec_writtenBy h)
  cases i with
  | call nnn => exact absurd rfl (hcall nnn)
  | _ => exact hw

theorem exec_index_of_not_writer (h : exec i s = .next t) (hload : ∀ nnn, i ≠ .loadIndex nnn)
    (hadd : ∀ x, i ≠ .addIndex x) (hfont : ∀ x, i ≠ .fontChar x) : t.i = s.i := by
  have hw := congrArg State.i (exec_writtenBy h)
  cases i with
  | loadIndex nnn => exact absurd rfl (hload nnn)
  | addIndex x => exact absurd rfl (hadd x)
  | fontChar x => exact absurd rfl (hfont x)
  | _ => exact hw

theorem exec_dt_of_not_setDelay (h : exec i s = .next t) (hset : ∀ x, i ≠ .setDelay x) :
    t.dt = s.dt := by
  have hw := congrArg State.dt (exec_writtenBy h)
  cases i with
  | setDelay x => exact absurd rfl (hset x)
  | _ => exact hw

theorem exec_st_of_not_setSound (h : exec i s = .next t) (hset : ∀ x, i ≠ .setSound x) :
    t.st = s.st := by
  have hw := congrArg State.st (exec_writtenBy h)
  cases i with
  | setSound x => exact absurd rfl (hset x)
  | _ => exact hw

theorem State.stackEntry_congr (h : t.stack = s.stack) (j : Nat) : t.stackEntry j = s.stackEntry j := by
  simp only [State.stackEntry, h]

end

/-- Settles O54: the frame of the instruction, field by field. -/
theorem specialStateHasItsOwnWriters : Obligations.SpecialStateHasItsOwnWriters := by
  intro i s t h
  refine ⟨fun hclear hdraw r c => ?_, fun hcall hret => ⟨exec_sp_of_not_writer h hcall hret, ?_⟩,
    exec_index_of_not_writer h, exec_dt_of_not_setDelay h, exec_st_of_not_setSound h⟩
  · rw [exec_fb_of_not_writer h hclear hdraw]
  · exact State.stackEntry_congr (exec_stack_of_not_call h hcall)

/-! ### The invariant -/

/-- The invariant speaks of memory's form, `pc`, the stack and the latch alone. -/
theorem Inv.of_fields {s t : State} (hs : Inv s) (hmem : Memory.wf t.mem) (hpc : t.pc = s.pc)
    (hstack : t.stack = s.stack) (hcode : t.faultCode = s.faultCode) (hlatch : t.faultPc = s.faultPc) :
    Inv t where
  mem_wf := hmem
  pc_le := hpc ▸ hs.pc_le
  stack_le j := State.stackEntry_congr hstack j ▸ hs.stack_le j
  code_le := hcode ▸ hs.code_le
  latch_clear h := hlatch.trans (hs.latch_clear (hcode ▸ h))
  latch_pc h := hlatch.trans ((hs.latch_pc (hcode ▸ h)).trans hpc.symm)

@[simp] theorem State.stackEntry_reset (j : Nat) : State.reset.stackEntry j = 0 := by
  simp only [State.stackEntry, State.reset, Vector.getElem?_replicate]
  split <;> rfl

/-- Settles O50: at reset memory lists nothing, the stack holds zeros and the latch is clear. -/
theorem invariantAtReset : Obligations.InvariantAtReset where
  mem_wf := wf_reset
  pc_le := by decide
  stack_le j := by rw [State.stackEntry_reset]; decide
  code_le := by decide
  latch_clear _ := rfl
  latch_pc h := absurd rfl h

/-- The host's turn keeps the invariant: its writes touch no field the invariant speaks of, and a reset
and load starts again from the reset state with a memory in canonical form (R44, R139). -/
theorem Inv.hostTurn {s : State} (hs : Inv s) : Inv s.hostTurn := by
  rw [State.hostTurn_eq]
  cases s.nextTurn.boot with
  | none => exact hs.of_fields hs.mem_wf rfl rfl rfl rfl
  | some image => exact Inv.of_fields invariantAtReset (wf_loadImage image) rfl rfl rfl rfl

theorem Inv.tick {s : State} (hs : Inv s) : Inv s.tick := hs.of_fields hs.mem_wf rfl rfl rfl rfl

theorem faultCodeOf_bounds (f : Fault) : faultCodeOf f ≠ 0 ∧ (faultCodeOf f).toNat ≤ 6 := by
  cases f <;> decide

/-- Taking a fault sets the latch to a code of R121 and to the address of the halt (R66). -/
theorem Inv.takeFault {s : State} (hs : Inv s) (f : Fault) : Inv (s.takeFault f) where
  mem_wf := hs.mem_wf
  pc_le := hs.pc_le
  stack_le := hs.stack_le
  code_le := (faultCodeOf_bounds f).2
  latch_clear h := absurd h (faultCodeOf_bounds f).1
  latch_pc _ := rfl

/-- The two instructions that write memory check first that their block fits (R32), so canonical memory
stays canonical. -/
theorem exec_mem_wf {i : Instr} {s t : State} (h : exec i s = .next t) (hm : Memory.wf s.mem) :
    Memory.wf t.mem := by
  have hw := congrArg State.mem (exec_writtenBy h)
  cases i with
  | bcd x =>
    obtain ⟨hfits, rfl⟩ := exec_bcd_next h
    exact wf_storeAtIndex s _ hm (by rwa [length_bcdDigits])
  | storeRegs x =>
    obtain ⟨hfits, rfl⟩ := exec_storeRegs_next h
    exact wf_storeAtIndex s _ hm (by rwa [State.length_regsUpTo])
  | _ => exact hw ▸ hm

/-- What a `call` pushes is the advanced `pc`, which the fetch bounds (R61, R62, R77). -/
theorem exec_stack_le {i : Instr} {s t : State} (h : exec i s = .next t) (hpc : s.pc.toNat ≤ 0x1000)
    (hs : ∀ j, (s.stackEntry j).toNat ≤ 0x1000) (j : Nat) : (t.stackEntry j).toNat ≤ 0x1000 := by
  by_cases hcall : ∃ nnn, i = .call nnn
  · obtain ⟨nnn, rfl⟩ := hcall
    obtain ⟨hsp, rfl⟩ := exec_call_next h
    rw [State.stackEntry_setPc, State.stackEntry_push s (by omega)]
    split
    · exact hpc
    · exact hs j
  · rw [State.stackEntry_congr (exec_stack_of_not_call h (not_exists.1 hcall))]
    exact hs j

/-- The length of an instruction in bytes, as a number: what a fetch adds to `pc` (R62). -/
theorem word_two_toNat : (2 : Word).toNat = 2 := rfl

/-- A skip from an advanced `pc` stays within R13's bound (R83). -/
theorem State.skipIf_pc_le (s : State) (c : Bool) (hpc : s.pc.toNat ≤ 0x1000) :
    (s.skipIf c).pc.toNat ≤ 0x10FE := by
  rw [State.skipIf_pc]
  split
  · rw [BitVec.toNat_add, word_two_toNat]; omega
  · omega

/-- The bound on `pc` (R13): a jump reaches 0xFFF, a `jump-offset` 0xFFF + 0xFF, a `return` an entry of the
stack, a skip two past the advanced `pc`; a wait goes back to the fetched word. -/
theorem exec_pc_le {i : Instr} {s t : State} (h : exec i s = .next t) (hlo : 2 ≤ s.pc.toNat)
    (hpc : s.pc.toNat ≤ 0x1000) (hs : ∀ j, (s.stackEntry j).toNat ≤ 0x1000) :
    t.pc.toNat ≤ 0x10FE := by
  have hw := congrArg State.pc (exec_writtenBy h)
  cases i with
  | ret =>
    obtain ⟨_, rfl⟩ := exec_ret_next h
    exact (hs _).trans (by decide)
  | jump nnn =>
    cases h
    rw [State.setPc_pc, addrOperand_toNat]
    omega
  | call nnn =>
    obtain ⟨_, rfl⟩ := exec_call_next h
    rw [State.setPc_pc, addrOperand_toNat]
    omega
  | jumpOffset nnn =>
    cases h
    rw [State.setPc_pc, BitVec.toNat_add, byteOperand_toNat, addrOperand_toNat]
    omega
  | skipEqImm | skipNeqImm | skipEqReg | skipNeqReg =>
    cases h
    exact s.skipIf_pc_le _ hpc
  | skipKey x =>
    obtain ⟨_, rfl⟩ := exec_skipKey_next h
    exact s.skipIf_pc_le _ hpc
  | skipNotKey x =>
    obtain ⟨_, rfl⟩ := exec_skipNotKey_next h
    exact s.skipIf_pc_le _ hpc
  | waitKey x =>
    obtain ⟨_, rfl⟩ | ⟨_, rfl⟩ := exec_waitKey_next h
    · rw [State.setPc_pc, BitVec.toNat_sub, word_two_toNat]
      omega
    · exact hpc.trans (by decide)
  | _ =>
    rw [show t.pc = s.pc from hw]
    omega

/-- An instruction that was fetched, and completes, keeps the invariant. -/
theorem Inv.exec_advance {i : Instr} {s t : State} {w : Word} (hs : Inv s) (hrun : s.faultCode = 0)
    (hfetch : s.pc.toNat ≤ 4094) (h : exec i (s.advance w) = .next t) : Inv t := by
  have hadv : (s.advance w).pc.toNat = s.pc.toNat + 2 := by
    rw [State.advance_pc, BitVec.toNat_add, word_two_toNat]
    omega
  have hout := exec_sameOutside _ _ _ h
  have hcode : t.faultCode = 0 := hout.faultCode.trans hrun
  exact {
    mem_wf := exec_mem_wf h hs.mem_wf
    pc_le := exec_pc_le h (by omega) (by omega) hs.stack_le
    stack_le := exec_stack_le h (by omega) hs.stack_le
    code_le := by rw [hcode]; decide
    latch_clear := fun _ => hout.faultPc.trans (hs.latch_clear hrun)
    latch_pc := fun hne => absurd hcode hne }

/-- Settles O51: the host's turn keeps the invariant, and so does each way a cycle goes. -/
theorem invariantKeptByStep : Obligations.InvariantKeptByStep := by
  intro s t hs h
  have hs := hs.hostTurn
  have hstep : cycle s.hostTurn = .next t := h
  rcases cycle_cases s.hostTurn with ⟨_, hc⟩ | ⟨_, _, hc⟩ | ⟨w, u, hrun, hw, hu, hc⟩ |
    ⟨_, f, _, _, _, hc⟩ <;> cases hc.symm.trans hstep
  · exact hs
  · exact hs.takeFault _
  · exact (hs.exec_advance hrun ((State.fetchWord_eq_some _ w).1 hw).1 hu).tick
  · exact hs.takeFault f

/-! ### Registers and the flag -/

/-- A flag byte is 1 when the condition its bit stands for holds, and 0 when it does not (R11). -/
theorem flagByte_spec {b : Bool} {c : Prop} (h : b = true ↔ c) :
    (c → flagByte b = 1) ∧ (¬ c → flagByte b = 0) := by
  rw [← h]
  cases b <;> simp [flagByte]

/-- The collision of a `draw`: some cell under a bit of 1 is on (R71). -/
theorem any_drawCells_iff (s : State) (x y : Reg) (n : Nibble) :
    (s.drawCells x y n).any (fun rc => Frame.cell s.fb rc.1 rc.2) = true ↔
      ∃ r c, SpriteOn s x y n r c ∧ Frame.cell s.fb r c = true := by
  simp only [List.any_eq_true, Prod.exists, mem_drawCells, SpriteOn]

/-- A flag is written before the result, so it stands unless `VF` is the destination (R11, R97). -/
theorem State.reg_VF_setReg_of_ne (s : State) {x : Reg} (hx : VF ∉ [x]) (v f : Byte) :
    ((s.setReg VF f).setReg x v).reg VF = f := by
  rw [State.reg_setReg, if_neg (List.mem_singleton.not.1 hx), State.reg_setReg, if_pos rfl]

/-- A result and a flag leave every register alone but the destination and `VF`. -/
theorem State.reg_setReg_VF_of_ne (s : State) {x r : Reg} (hx : r ∉ [x]) (hvf : r ≠ VF) (v f : Byte) :
    ((s.setReg VF f).setReg x v).reg r = s.reg r := by
  rw [State.reg_setReg, if_neg (List.mem_singleton.not.1 hx), State.reg_setReg, if_neg hvf]

/-- An instruction that completes changes no register but its destinations and, when it writes a flag,
`VF` (R10, R11). -/
theorem exec_reg_of_not_dest {i : Instr} {s t : State} (h : exec i s = .next t) {r : Reg}
    (hr : r ∉ destRegs i) (hflag : r = VF → sideFlag s i = none) : t.reg r = s.reg r := by
  have hw := congrArg (fun u => u.reg r) (exec_writtenBy h)
  cases i with
  | loadImm | addImm | loadReg | orReg | andReg | xorReg | rand | readDelay =>
    cases h
    rw [State.reg_setReg, if_neg (List.mem_singleton.not.1 hr)]
  | addReg | sub | shr | subn | shl =>
    cases h
    exact s.reg_setReg_VF_of_ne hr (fun hvf => nomatch hflag hvf) _ _
  | draw x y n =>
    obtain ⟨_, rfl⟩ := exec_draw_next h
    rw [State.reg_setFrame, State.reg_setReg, if_neg fun hvf => nomatch hflag hvf]
  | waitKey x =>
    obtain ⟨_, rfl⟩ | ⟨_, rfl⟩ := exec_waitKey_next h
    · rfl
    · rw [State.reg_setReg, if_neg (List.mem_singleton.not.1 hr)]
  | loadRegs x =>
    obtain ⟨_, rfl⟩ := exec_loadRegs_next h
    have hx : ¬ r.val ≤ x.val := fun hle =>
      hr (List.mem_filter.2 ⟨List.mem_finRange r, decide_eq_true hle⟩)
    rw [State.reg_loadRegsUpTo, if_neg hx]
  | _ => exact hw

/-- The six flag-writing instructions write the flag of R11, which stays unless `VF` is the destination. -/
theorem exec_reg_VF {i : Instr} {s t : State} (h : exec i s = .next t) {c : Prop}
    (hc : sideFlag s i = some c) (hvf : VF ∉ destRegs i) :
    (c → t.reg VF = 1) ∧ (¬ c → t.reg VF = 0) := by
  cases i with
  | addReg | sub | subn =>
    cases h
    cases hc
    rw [State.reg_VF_setReg_of_ne s hvf]
    exact flagByte_spec decide_eq_true_iff
  | shr | shl =>
    cases h
    cases hc
    rw [State.reg_VF_setReg_of_ne s hvf]
    exact flagByte_spec Iff.rfl
  | draw x y n =>
    obtain ⟨_, rfl⟩ := exec_draw_next h
    cases hc
    rw [State.reg_setFrame, State.reg_setReg, if_pos rfl]
    exact flagByte_spec (any_drawCells_iff s x y n)
  | _ => cases hc

/-- Settles O55: the registers that stay, and the flag of the six that write one. -/
theorem registersAndTheFlag : Obligations.RegistersAndTheFlag :=
  fun _ _ _ h => ⟨fun _ hr hflag => exec_reg_of_not_dest h hr hflag, fun _ => exec_reg_VF h⟩

/-! ### What no instruction reads -/

/-- A change of the stored inputs, `ir` and `st`, each by a function of its own. -/
def State.perturb (fk fw : Word → Word) (fr fs : Byte → Byte) (s : State) : State :=
  { s with key := fk s.key, ir := fw s.ir, rnd := fr s.rnd, st := fs s.st }

@[simp] theorem mapNext_next (g : State → State) (t : State) : mapNext g (.next t) = .next (g t) := rfl

/-- A change of the state commutes with a guard. -/
theorem mapNext_ite (g : State → State) (c : Prop) [Decidable c]
    (a b : Host.Outcome State Fault Refusal) :
    mapNext g (if c then a else b) = if c then mapNext g a else mapNext g b :=
  apply_ite (mapNext g) c a b

section
variable (fk fw : Word → Word) (fr fs : Byte → Byte)

/-- A block load reads none of what `perturb` changes. -/
theorem State.loadRegsUpTo_perturb (s : State) (x : Reg) :
    (s.perturb fk fw fr fs).loadRegsUpTo x = (s.loadRegsUpTo x).perturb fk fw fr fs :=
  List.foldl_hom (State.perturb fk fw fr fs) fun _ _ => rfl

/-- Noninterference: a change of the keypad, the random byte, `ir` and `st` passes through an instruction
unchanged, if it leaves alone the input the instruction reads, and `st` where the instruction writes it
(R15, R16, R18, R21). -/
theorem exec_perturb (i : Instr) (s : State) (hk : readsKey i = true → fk = id)
    (hr : ∀ x kk, i = .rand x kk → fr = id) (hs : ∀ x, i = .setSound x → fs = id) :
    exec i (s.perturb fk fw fr fs) = mapNext (State.perturb fk fw fr fs) (exec i s) := by
  cases i with
  | skipKey x | skipNotKey x =>
    cases hk rfl
    simp only [exec, execSkipKey, execSkipNotKey, mapNext_ite]
    rfl
  | waitKey x =>
    cases hk rfl
    simp only [exec, execWaitKey, mapNext_next, apply_ite (State.perturb id fw fr fs)]
    rfl
  | rand x kk => cases hr x kk rfl; rfl
  | setSound x => cases hs x rfl; rfl
  | loadRegs x =>
    simp only [exec, execLoadRegs, mapNext_ite, State.loadRegsUpTo_perturb]
    rfl
  | draw | ret | call | bcd | storeRegs =>
    simp only [exec, execDraw, execReturn, execCall, execBcd, execStoreRegs, mapNext_ite]
    rfl
  | _ => rfl

end

/-- Settles O56: each input is changed alone, by a `perturb` with `id` elsewhere. -/
theorem inputsAndScratchAreNotRead : Obligations.InputsAndScratchAreNotRead := by
  intro i s
  refine ⟨fun hk k => ?_, fun hr b => ?_, fun w => ?_, fun hs b => ?_⟩
  · exact exec_perturb (fun _ => k) id id id i s (fun h => nomatch hk.symm.trans h) (fun _ _ _ => rfl)
      fun _ _ => rfl
  · exact exec_perturb id id (fun _ => b) id i s (fun _ => rfl) (fun x kk h => absurd h (hr x kk))
      fun _ _ => rfl
  · exact exec_perturb id (fun _ => w) id id i s (fun _ => rfl) (fun _ _ _ => rfl) fun _ _ => rfl
  · exact exec_perturb id id id (fun _ => b) i s (fun _ => rfl) (fun _ _ _ => rfl)
      fun x h => absurd h (hs x)

/-! ### The state after reset -/

@[simp] theorem State.reg_reset (r : Reg) : State.reset.reg r = 0 := Vector.getElem_replicate _

theorem resetByte_of_outside_font {a : Nat} (h : a < 0x050 ∨ 0x09F < a) : resetByte a = 0 := by
  simp only [resetByte, Config.fontStart, Config.fontBytes]
  rw [if_neg (by omega)]

/-- The font area holds the font, byte by byte (R26). -/
theorem resetByte_of_font {k : Nat} (h : k < 80) : resetByte (0x050 + k) = font.getD k 0 := by
  simp only [resetByte, Config.fontStart, Config.fontBytes]
  rw [if_pos (by omega), Nat.add_sub_cancel_left]

theorem map_resetByte_eq_font : (List.range 80).map (fun k => resetByte (0x050 + k)) = font := by
  refine List.ext_getElem rfl fun k hk hfont => ?_
  have hlt : k < 80 := hfont
  rw [List.getElem_map, List.getElem_range, resetByte_of_font hlt, List.getD_eq_getElem _ _ hfont]

/-- Settles O58: the fields of the reset state, and its memory, which reads as the reset contents. -/
theorem resetState : Obligations.ResetState :=
  ⟨State.reg_reset, rfl, rfl, State.stackEntry_reset, rfl, rfl, rfl, rfl, Frame.cell_clear, rfl, rfl, rfl,
    fun _ => resetByte_of_outside_font, map_resetByte_eq_font⟩

end Sys2Proof.Machine

namespace Sys2Proof.Machine

/-! ### The writers of memory -/

/-- Only `bcd` and `store-regs` write memory (R30, R37). -/
theorem exec_mem_of_not_writer {i : Instr} {s t : State} (h : exec i s = .next t)
    (hbcd : ∀ x, i ≠ .bcd x) (hstore : ∀ x, i ≠ .storeRegs x) : t.mem = s.mem := by
  have hw := congrArg State.mem (exec_writtenBy h)
  cases i with
  | bcd x => exact absurd rfl (hbcd x)
  | storeRegs x => exact absurd rfl (hstore x)
  | _ => exact hw

/-- Settles O53: the memory is the same list of bytes, so every address reads the same. -/
theorem onlyBcdAndStoreRegsWriteMemory : Obligations.OnlyBcdAndStoreRegsWriteMemory := by
  intro i s t h hbcd hstore a
  rw [exec_mem_of_not_writer h hbcd hstore]

/-! ### Reset and program load -/

/-- A loaded image stands from 0x200 up to its end or to the end of memory, whichever comes first, and
every other byte is as at reset (R44). -/
theorem Memory.read_loadImage (image : List Byte) (a : Nat) :
    Memory.read (loadImage image) a =
      if 0x200 ≤ a ∧ a < 0x200 + image.length ∧ a ≤ 0xFFF then image.getD (a - 0x200) 0
      else Memory.read State.reset.mem a := by
  rw [loadImage, Memory.read_writeBlock, List.length_take]
  simp only [Config.progStart, Config.romMax]
  by_cases ha : 0x200 ≤ a ∧ a < 0x200 + image.length ∧ a ≤ 0xFFF
  · have hcut : a - 0x200 < 3584 := by omega
    rw [if_pos ha, if_pos (by omega), List.getD_eq_getElem?_getD, List.getElem?_take_of_lt hcut,
      ← List.getD_eq_getElem?_getD]
  · rw [if_neg ha, if_neg (by omega)]
    rfl

@[simp] theorem State.boot_mem (s : State) (image : List Byte) : (s.boot image).mem = loadImage image := rfl

/-- A turn that resets boots the image in the state with the turn used up, then presents the turn's inputs
and writes its timers (R135, R137, R139). -/
theorem State.hostTurn_of_boot {s : State} {image : List Byte} (h : s.nextTurn.boot = some image) :
    s.hostTurn =
      ({ s with script := s.script.tail, turn := s.turn + 1 }.boot image).present s.nextTurn := by
  rw [State.hostTurn, h, State.bootIf]

/-- A reset clears the delay timer before the turn writes it (R24, R139). -/
theorem State.hostTurn_dt_of_boot {s : State} {image : List Byte}
    (h : s.nextTurn.boot = some image) : s.hostTurn.dt = s.nextTurn.delay.getD 0 := by
  rw [State.hostTurn_of_boot h]
  rfl

/-- A reset clears the sound timer before the turn writes it (R24, R139). -/
theorem State.hostTurn_st_of_boot {s : State} {image : List Byte}
    (h : s.nextTurn.boot = some image) : s.hostTurn.st = s.nextTurn.sound.getD 0 := by
  rw [State.hostTurn_of_boot h]
  rfl

/-- Settles O59: the memory is the loaded image; the turn presents its inputs to the booted state, whose
timers are 0 where the turn writes none. -/
theorem bootLoadsTheProgram : Obligations.BootLoadsTheProgram := by
  intro s image
  refine ⟨fun j hj hfits => ?_, fun a ha => ?_, rfl, fun hboot => ?_⟩
  · rw [State.boot_mem, Memory.read_loadImage, if_pos (by omega), Nat.add_sub_cancel_left]
  · rw [State.boot_mem, Memory.read_loadImage, if_neg (by omega)]
  · rw [State.hostTurn_dt_of_boot hboot, State.hostTurn_st_of_boot hboot]
    refine ⟨?_, fun h => ?_, fun v h => ?_, fun h => ?_, fun v h => ?_⟩
    · rw [State.hostTurn_of_boot hboot]
      rfl
    all_goals
      rw [h]
      rfl

end Sys2Proof.Machine

namespace Sys2Proof

/-! ### The fields of a word of each format (R46, R47) -/

section
variable {op n kk : Nat}

@[simp] theorem fieldOP_wordNNN (nnn : Addr) (hop : op < 16) :
    (fieldOP (wordNNN op nnn)).toNat = op := by
  have := nnn.isLt
  simp only [fieldOP_toNat, wordNNN, BitVec.toNat_ofNat]; omega

@[simp] theorem fieldNNN_wordNNN (op : Nat) (nnn : Addr) : fieldNNN (wordNNN op nnn) = nnn := by
  refine BitVec.eq_of_toNat_eq ?_
  have := nnn.isLt
  simp only [fieldNNN_toNat, wordNNN, BitVec.toNat_ofNat]; omega

@[simp] theorem fieldOP_wordXKK (x : Reg) (hop : op < 16) (hkk : kk < 256) :
    (fieldOP (wordXKK op x kk)).toNat = op := by
  have := x.isLt
  simp only [fieldOP_toNat, wordXKK, BitVec.toNat_ofNat]; omega

@[simp] theorem fieldX_wordXKK (op : Nat) (x : Reg) (hkk : kk < 256) :
    fieldX (wordXKK op x kk) = x := by
  refine Fin.ext ?_
  have := x.isLt
  simp only [fieldX_val, wordXKK, BitVec.toNat_ofNat]; omega

/-- The low byte of a word of format `XSEL` is its selector. -/
@[simp] theorem fieldKK_toNat_wordXKK (op : Nat) (x : Reg) (hkk : kk < 256) :
    (fieldKK (wordXKK op x kk)).toNat = kk := by
  simp only [fieldKK_toNat, wordXKK, BitVec.toNat_ofNat]; omega

@[simp] theorem fieldKK_wordXKK (op : Nat) (x : Reg) (kk : Byte) :
    fieldKK (wordXKK op x kk.toNat) = kk :=
  BitVec.eq_of_toNat_eq (fieldKK_toNat_wordXKK op x kk.isLt)

@[simp] theorem fieldN_toNat_wordXKK (op : Nat) (x : Reg) (kk : Nat) :
    (fieldN (wordXKK op x kk)).toNat = kk % 16 := by
  simp only [fieldN_toNat, wordXKK, BitVec.toNat_ofNat]; omega

@[simp] theorem fieldOP_wordXYN (x y : Reg) (hop : op < 16) (hn : n < 16) :
    (fieldOP (wordXYN op x y n)).toNat = op := by
  have := x.isLt; have := y.isLt
  simp only [fieldOP_toNat, wordXYN, BitVec.toNat_ofNat]; omega

@[simp] theorem fieldX_wordXYN (op : Nat) (x y : Reg) (hn : n < 16) :
    fieldX (wordXYN op x y n) = x := by
  refine Fin.ext ?_
  have := x.isLt; have := y.isLt
  simp only [fieldX_val, wordXYN, BitVec.toNat_ofNat]; omega

@[simp] theorem fieldY_wordXYN (op : Nat) (x y : Reg) (hn : n < 16) :
    fieldY (wordXYN op x y n) = y := by
  refine Fin.ext ?_
  have := y.isLt
  simp only [fieldY_val, wordXYN, BitVec.toNat_ofNat]; omega

/-- The low nibble of a word of format `XY` is its selector. -/
@[simp] theorem fieldN_toNat_wordXYN (op : Nat) (x y : Reg) (hn : n < 16) :
    (fieldN (wordXYN op x y n)).toNat = n := by
  simp only [fieldN_toNat, wordXYN, BitVec.toNat_ofNat]; omega

@[simp] theorem fieldN_wordXYN (op : Nat) (x y : Reg) (n : Nibble) :
    fieldN (wordXYN op x y n.toNat) = n :=
  BitVec.eq_of_toNat_eq (fieldN_toNat_wordXYN op x y n.isLt)

end

/-! ### Which words decode to the no-op (R54) -/

theorem decodeGroup0_eq_nopUnmapped_iff {w v : Word} :
    decodeGroup0 w = .nopUnmapped v ↔ w = v ∧ (fieldN w).toNat ∉ [0x0, 0xE] := by
  unfold decodeGroup0
  split <;> simp_all

theorem decodeGroup8_eq_nopUnmapped_iff {w v : Word} :
    decodeGroup8 w = .nopUnmapped v ↔
      w = v ∧ (fieldN w).toNat ∉ [0x0, 0x1, 0x2, 0x3, 0x4, 0x5, 0x6, 0x7, 0xE] := by
  unfold decodeGroup8
  split <;> simp_all

theorem decodeGroupE_eq_nopUnmapped_iff {w v : Word} :
    decodeGroupE w = .nopUnmapped v ↔ w = v ∧ (fieldN w).toNat ∉ [0x1, 0xE] := by
  unfold decodeGroupE
  split <;> simp_all

theorem decodeGroupF_eq_nopUnmapped_iff {w v : Word} :
    decodeGroupF w = .nopUnmapped v ↔
      w = v ∧ (fieldKK w).toNat ∉ [0x07, 0x0A, 0x15, 0x18, 0x1E, 0x29, 0x33, 0x55, 0x65] := by
  unfold decodeGroupF
  split <;> simp_all

/-- The unmapped words by their fields; group 0x8 by the nibbles it maps, where R54 lists the others. -/
theorem unmappedWord_iff (w : Word) :
    unmappedWord w = true ↔
      ((fieldOP w).toNat = 0x0 ∧ (fieldN w).toNat ∉ [0x0, 0xE]) ∨
      ((fieldOP w).toNat = 0x8 ∧
        (fieldN w).toNat ∉ [0x0, 0x1, 0x2, 0x3, 0x4, 0x5, 0x6, 0x7, 0xE]) ∨
      ((fieldOP w).toNat = 0xE ∧ (fieldN w).toNat ∉ [0x1, 0xE]) ∨
      ((fieldOP w).toNat = 0xF ∧
        (fieldKK w).toNat ∉ [0x07, 0x0A, 0x15, 0x18, 0x1E, 0x29, 0x33, 0x55, 0x65]) := by
  have hN : w.toNat % 0x10 ∈ [0x8, 0x9, 0xA, 0xB, 0xC, 0xD, 0xF] ↔
      w.toNat % 0x10 ∉ [0x0, 0x1, 0x2, 0x3, 0x4, 0x5, 0x6, 0x7, 0xE] := by
    simp only [List.mem_cons, List.not_mem_nil, or_false]; omega
  simp [unmappedWord, fieldOP_toNat, fieldN_toNat, fieldKK_toNat, hN, or_assoc]

/-- A word decodes to the no-op exactly when it is unmapped, and the no-op carries the word (R54).
The top nibble picks the group (R48), and a nibble without a group maps every word. -/
theorem decodeWord_eq_nopUnmapped_iff {w v : Word} :
    decodeWord w = .nopUnmapped v ↔ w = v ∧ unmappedWord w = true := by
  rw [unmappedWord_iff]
  have hlt : (fieldOP w).toNat < 16 := (fieldOP w).isLt
  interval_cases hop : (fieldOP w).toNat
  all_goals
    simp [decodeWord, hop, decodeGroup0_eq_nopUnmapped_iff, decodeGroup8_eq_nopUnmapped_iff,
      decodeGroupE_eq_nopUnmapped_iff, decodeGroupF_eq_nopUnmapped_iff]

/-- The no-op alone has a condition. -/
theorem Instr.wellFormed_iff {i : Instr} :
    i.wellFormed = true ↔ ∀ w, i = .nopUnmapped w → unmappedWord w = true := by
  cases i with
  | nopUnmapped w => exact ⟨fun h v hv => Instr.nopUnmapped.inj hv ▸ h, fun h => h w rfl⟩
  | _ => exact iff_of_true rfl fun _ h => nomatch h

/-- Settles O41: the no-op carries its own word, which is unmapped, and no other instruction has a
condition. -/
theorem decodeIsTotalAndWellFormed : Obligations.DecodeIsTotalAndWellFormed := by
  refine fun w => ⟨Instr.wellFormed_iff.2 fun v hv => ?_, fun ⟨v, hv⟩ => ?_, fun hw => ?_⟩
  · obtain ⟨rfl, hw⟩ := decodeWord_eq_nopUnmapped_iff.1 hv
    exact hw
  · exact (decodeWord_eq_nopUnmapped_iff.1 hv).2
  · exact ⟨w, decodeWord_eq_nopUnmapped_iff.2 ⟨rfl, hw⟩⟩

/-! ### The round trip -/

/-- The word of a well-formed instruction decodes to it: the dispatch reads the selectors of the word's
format and hands back its operand fields (R46, R59). -/
theorem decodeWord_encodeWord {i : Instr} (h : i.wellFormed = true) :
    decodeWord (encodeWord i) = i := by
  cases i with
  | clearScreen | ret => decide
  | jump | call | loadIndex | jumpOffset => simp [encodeWord, decodeWord]
  | skipEqImm x kk | skipNeqImm x kk | loadImm x kk | addImm x kk | rand x kk =>
    have hkk : kk.toNat < 256 := kk.isLt
    simp [encodeWord, decodeWord, hkk]
  | skipEqReg | skipNeqReg => simp [encodeWord, decodeWord]
  | draw x y n =>
    have hn : n.toNat < 16 := n.isLt
    simp [encodeWord, decodeWord, hn]
  | loadReg | orReg | andReg | xorReg | addReg | sub | shr | subn | shl =>
    simp [encodeWord, decodeWord, decodeGroup8]
  | skipNotKey | skipKey => simp [encodeWord, decodeWord, decodeGroupE]
  | readDelay | waitKey | setDelay | setSound | addIndex | fontChar | bcd | storeRegs | loadRegs =>
    simp [encodeWord, decodeWord, decodeGroupF]
  | nopUnmapped w => exact decodeWord_eq_nopUnmapped_iff.2 ⟨rfl, h⟩

/-- Settles O42: the round trip on words; the bytes of a word join to that word. -/
theorem decodeOfEncode : Obligations.DecodeOfEncode := by
  refine fun i h => ⟨decodeWord_encodeWord h, rfl, fun rest => ?_⟩
  rw [encode, decode_wordBytes, decodeWord_encodeWord h]

/-- Settles O43: each word, decoded by evaluation. -/
theorem sampleWordsDecode : Obligations.SampleWordsDecode := by
  unfold Obligations.SampleWordsDecode
  decide

end Sys2Proof

namespace Sys2Proof

/-! ### The row of the decoded word (R59) -/

/-- The word matches the row of the instruction. -/
def MatchesRow (w : Word) (i : Instr) : Prop := w &&& (opcodeRow i).mask = (opcodeRow i).pattern

section
variable {w p : Word}

theorem and_F000_eq_of_op (hp : p &&& 0xF000 = p) (hop : (fieldOP w).toNat = (fieldOP p).toNat) :
    w &&& 0xF000 = p :=
  ((and_F000_eq_iff w p).2 (BitVec.eq_of_toNat_eq hop)).trans hp

theorem and_F00F_eq_of_op_n (hp : p &&& 0xF00F = p) (hop : (fieldOP w).toNat = (fieldOP p).toNat)
    (hn : (fieldN w).toNat = (fieldN p).toNat) : w &&& 0xF00F = p :=
  ((and_F00F_eq_iff w p).2 ⟨BitVec.eq_of_toNat_eq hop, BitVec.eq_of_toNat_eq hn⟩).trans hp

theorem and_F0FF_eq_of_op_kk (hp : p &&& 0xF0FF = p) (hop : (fieldOP w).toNat = (fieldOP p).toNat)
    (hkk : (fieldKK w).toNat = (fieldKK p).toNat) : w &&& 0xF0FF = p :=
  ((and_F0FF_eq_iff w p).2 ⟨BitVec.eq_of_toNat_eq hop, BitVec.eq_of_toNat_eq hkk⟩).trans hp

/-! The dispatch, group by group; the row of the no-op, last in each group, looks at no bit (R48). -/

theorem matchesRow_decodeGroup0 (hop : (fieldOP w).toNat = 0x0) : MatchesRow w (decodeGroup0 w) := by
  unfold decodeGroup0
  split <;> dsimp only [MatchesRow, opcodeRow]
  iterate 2 next hn => exact and_F00F_eq_of_op_n rfl hop hn
  exact BitVec.and_zero

theorem matchesRow_decodeGroup8 (hop : (fieldOP w).toNat = 0x8) : MatchesRow w (decodeGroup8 w) := by
  unfold decodeGroup8
  split <;> dsimp only [MatchesRow, opcodeRow]
  iterate 9 next hn => exact and_F00F_eq_of_op_n rfl hop hn
  exact BitVec.and_zero

theorem matchesRow_decodeGroupE (hop : (fieldOP w).toNat = 0xE) : MatchesRow w (decodeGroupE w) := by
  unfold decodeGroupE
  split <;> dsimp only [MatchesRow, opcodeRow]
  iterate 2 next hn => exact and_F00F_eq_of_op_n rfl hop hn
  exact BitVec.and_zero

theorem matchesRow_decodeGroupF (hop : (fieldOP w).toNat = 0xF) : MatchesRow w (decodeGroupF w) := by
  unfold decodeGroupF
  split <;> dsimp only [MatchesRow, opcodeRow]
  iterate 9 next hkk => exact and_F0FF_eq_of_op_kk rfl hop hkk
  exact BitVec.and_zero

end

/-- Every word matches the row of the instruction it decodes to. -/
theorem matchesRow_decodeWord (w : Word) : MatchesRow w (decodeWord w) := by
  unfold decodeWord
  split <;> dsimp only [MatchesRow, opcodeRow]
  · next hop => exact matchesRow_decodeGroup0 hop
  iterate 7 next hop => exact and_F000_eq_of_op rfl hop
  · next hop => exact matchesRow_decodeGroup8 hop
  iterate 5 next hop => exact and_F000_eq_of_op rfl hop
  · next hop => exact matchesRow_decodeGroupE hop
  · have hlt : (fieldOP w).toNat < 16 := (fieldOP w).isLt
    refine matchesRow_decodeGroupF ?_
    simp only [imp_false] at *
    omega

/-- Every instruction but the no-op has one of the 34 rows. -/
theorem opcodeRow_mem_opcodeRows {i : Instr} (h : ∀ v, i ≠ .nopUnmapped v) :
    opcodeRow i ∈ opcodeRows := by
  cases i with
  | nopUnmapped v => exact absurd rfl (h v)
  | _ => simp [opcodeRow, opcodeRows]

/-- A word that matches none of the 34 rows decodes to the no-op, which carries it (R54, R65). -/
theorem decodeWord_of_no_row {w : Word} (h : ∀ row ∈ opcodeRows, w &&& row.mask ≠ row.pattern) :
    decodeWord w = .nopUnmapped w := by
  by_contra hne
  refine h _ (opcodeRow_mem_opcodeRows fun v hv => hne ?_) (matchesRow_decodeWord w)
  rw [hv, (decodeWord_eq_nopUnmapped_iff.1 hv).1]

end Sys2Proof

namespace Sys2Proof.Machine

/-! ### Each way a running machine's cycle goes -/

section
variable {s t : State} {w : Word}

/-- A `pc` too high to fetch from is a fault before all else (R61, R66). -/
theorem cycle_of_unfetchable (hrun : s.faultCode = 0) (hpc : s.pc.toNat > 4094) :
    cycle s = .next (s.takeFault .fetchOutOfBounds) := by
  simp only [cycle, if_pos hrun, s.fetchWord_eq_none.2 hpc, finishCycle]

/-- The tick follows an instruction that completes (R64). -/
theorem cycle_of_exec_next (hrun : s.faultCode = 0) (hw : s.fetchWord = some w)
    (h : exec (decodeWord w) (s.advance w) = .next t) : cycle s = .next t.tick := by
  rw [cycle_fetched s w hrun hw, h, finishCycle]

/-- A fault of the instruction is taken from the state at the start of the cycle (R66). -/
theorem cycle_of_exec_fault {f : Fault} (hrun : s.faultCode = 0) (hw : s.fetchWord = some w)
    (h : exec (decodeWord w) (s.advance w) = .fault f) : cycle s = .next (s.takeFault f) := by
  rw [cycle_fetched s w hrun hw, h, finishCycle]

/-- After a fetch the advance of `pc` does not wrap (R61, R62). -/
theorem State.advance_pc_toNat (hw : s.fetchWord = some w) :
    (s.advance w).pc.toNat = s.pc.toNat + 2 := by
  obtain ⟨hpc, _⟩ := (s.fetchWord_eq_some w).1 hw
  rw [State.advance_pc, BitVec.toNat_add, word_two_toNat]
  omega

end

/-- Settles O38: such a word is no other instruction's, and the cycle of the no-op is the advance and the
tick. -/
theorem unmappedWordDoesNothing : Obligations.UnmappedWordDoesNothing := by
  refine ⟨fun w => decodeWord_of_no_row, fun w s => ⟨s, rfl, rfl⟩, fun v w s hrun hw hnop => ?_⟩
  have hexec : exec (decodeWord w) (s.advance w) = .next (s.advance w) := by rw [hnop]; rfl
  exact ⟨(s.advance w).tick, cycle_of_exec_next hrun hw hexec, State.advance_pc_toNat hw,
    tickTimer_toNat s.dt, tickTimer_toNat s.st, rfl⟩

/-- Settles O48: the state at the start of the cycle takes the fault, whose code is that of R121. -/
theorem faultsArePrecise : Obligations.FaultsArePrecise := by
  refine fun s hrun => ⟨cycle_of_unfetchable hrun, fun w f hw hfault => ?_⟩
  refine ⟨faultCodeOf f, cycle_of_exec_fault hrun hw hfault, (faultCodeOf_bounds f).1, ?_, ?_, ?_, ?_, ?_⟩
  all_goals
    rintro rfl
    rfl

/-- Settles O44: the cycle's cases from the state after the host's turn; the fetched word joins the two
bytes that the decoder reads. -/
theorem stepRunsTheDecodedInstruction : Obligations.StepRunsTheDecodedInstruction := by
  rintro s u rfl
  refine ⟨cycle_halted s.hostTurn, cycle_of_unfetchable, fun i rest hrun hpc hdecode => ?_⟩
  cases hdecode
  have hw := (s.hostTurn.fetchWord_eq_some _).2 ⟨hpc, rfl⟩
  exact ⟨_, joinBytes_toNat _ _, rfl, (decodeIsTotalAndWellFormed _).1,
    fun _ => cycle_of_exec_next hrun hw, fun _ => cycle_of_exec_fault hrun hw⟩

/-! ### A halted machine under a host that does not reset -/

/-- Nothing differs but what the host writes: the timers and the inputs, and the model's script and count of
its turns. -/
def OnlyHostWrites (s t : State) : Prop :=
  t = { s with dt := t.dt, st := t.st, key := t.key, rnd := t.rnd, script := t.script, turn := t.turn }

section
variable {s t u : State} {n : Nat}

theorem OnlyHostWrites.trans (hst : OnlyHostWrites s t) (htu : OnlyHostWrites t u) :
    OnlyHostWrites s u := by
  unfold OnlyHostWrites at hst htu ⊢
  rw [hst] at htu
  exact htu

theorem OnlyHostWrites.faultCode_eq (h : OnlyHostWrites s t) : t.faultCode = s.faultCode := by
  unfold OnlyHostWrites at h
  rw [h]

/-- A turn without a reset uses up the turn, presents its inputs and writes its timers (R139). -/
theorem State.hostTurn_of_no_boot (h : s.nextTurn.boot = none) :
    s.hostTurn = { s with script := s.script.tail, turn := s.turn + 1 }.present s.nextTurn := by
  rw [State.hostTurn, h, State.bootIf]

theorem onlyHostWrites_hostTurn (h : s.nextTurn.boot = none) : OnlyHostWrites s s.hostTurn := by
  rw [State.hostTurn_of_no_boot h]
  rfl

theorem NoResetFor.nextTurn_boot (h : NoResetFor (n + 1) s) : s.nextTurn.boot = none :=
  h 0 n.succ_pos

theorem NoResetFor.of_step (h : NoResetFor (n + 1) s) (hstep : step s = .next t) : NoResetFor n t := by
  intro k hk
  rw [step_turnAt s t hstep]
  exact h (k + 1) (Nat.succ_lt_succ hk)

/-- A halted machine's step without a reset is the host's turn alone (R67). -/
theorem step_of_halted (hhalt : s.faultCode ≠ 0) (hboot : s.nextTurn.boot = none) :
    step s = .next s.hostTurn :=
  cycle_halted _ ((onlyHostWrites_hostTurn hboot).faultCode_eq ▸ hhalt)

end

/-- A halted machine's run without a reset is the host's turns alone (R67). -/
theorem run_of_halted (n : Nat) {s : State} (hhalt : s.faultCode ≠ 0) (hreset : NoResetFor n s) :
    ∃ t, Host.Core.run Sys2Proof.core n s = .next t ∧ OnlyHostWrites s t := by
  induction n generalizing s with
  | zero => exact ⟨s, rfl, rfl⟩
  | succ n ih =>
    have hboot := hreset.nextTurn_boot
    have hturn := onlyHostWrites_hostTurn hboot
    have hstep := step_of_halted hhalt hboot
    obtain ⟨t, hrun, ht⟩ := ih (hturn.faultCode_eq ▸ hhalt) (hreset.of_step hstep)
    exact ⟨t, (run_succ n s _ hstep).trans hrun, hturn.trans ht⟩

/-- Settles O49: a cycle changes nothing, so each step is the host's turn. -/
theorem haltedUntilReset : Obligations.HaltedUntilReset :=
  fun s hhalt => ⟨cycle_halted s hhalt, fun n => run_of_halted n hhalt⟩

end Sys2Proof.Machine

namespace Sys2Proof

/-! ### The words of the display instructions (R59) -/

section
variable {w : Word}

theorem decodeWord_eq_clearScreen (h : w &&& 0xF00F = 0x0000) : decodeWord w = .clearScreen := by
  obtain ⟨hop, hn⟩ := op_n_of_match w 0x0000 h rfl
  rw [decodeWord, decodeGroup0, hop, hn]
  rfl

theorem decodeWord_eq_draw (h : w &&& 0xF000 = 0xD000) :
    decodeWord w = .draw (fieldX w) (fieldY w) (fieldN w) := by
  rw [decodeWord, op_of_match w 0xD000 h rfl]
  rfl

end

end Sys2Proof

namespace Sys2Proof.Machine

/-! ### `clear-screen` -/

/-- Settles O1: the new screen is the one with every cell off. -/
theorem clearScreenTurnsEveryCellOff : Obligations.ClearScreenTurnsEveryCellOff :=
  ⟨fun _ => decodeWord_eq_clearScreen,
    fun s => ⟨s.setFrame Frame.clear, rfl, Frame.cell_clear, rfl, fun _ => rfl⟩⟩

/-! ### `draw`: the tests before anything is written, and the cells after -/

section
variable {s t : State} {x y : Reg} {n : Nibble}

/-- The bytes of a sprite lie in memory: R71's bound on the last of them, if there is any. -/
theorem blockFits_iff_last_le (i : Word) (n : Nat) :
    blockFits i n = true ↔ n = 0 ∨ i.toNat + n - 1 ≤ 4095 := by
  rw [blockFits_iff]
  omega

/-- The lit cells of a `draw` are those under the sprite's bits of 1 (R72). -/
theorem mem_drawCells_iff_spriteOn (s : State) (x y : Reg) (n : Nibble) (r c : Nat) :
    (r, c) ∈ s.drawCells x y n ↔ SpriteOn s x y n r c :=
  mem_drawCells s x y n r c

/-- The grid test of a `draw`: no bit of 1 stands outside the grid (R71). -/
theorem all_inGrid_drawCells_iff (s : State) (x y : Reg) (n : Nibble) :
    (s.drawCells x y n).all inGrid = true ↔ ∀ r c, SpriteOn s x y n r c → c ≤ 63 ∧ r ≤ 31 := by
  simp only [List.all_eq_true, Prod.forall, inGrid_iff, mem_drawCells_iff_spriteOn]
  refine forall₃_congr fun r c _ => ?_
  omega

theorem exec_draw_of_not_fits (hfits : ¬ blockFits s.i n.toNat = true) :
    exec (.draw x y n) s = .fault .memOutOfBounds :=
  if_neg hfits

theorem exec_draw_of_off_grid (hfits : blockFits s.i n.toNat = true)
    (hgrid : ¬ (s.drawCells x y n).all inGrid = true) :
    exec (.draw x y n) s = .fault .drawOutOfGrid :=
  (if_pos hfits).trans (if_neg hgrid)

theorem exec_draw_completes (hfits : blockFits s.i n.toNat = true)
    (hgrid : (s.drawCells x y n).all inGrid = true) : ∃ t, exec (.draw x y n) s = .next t :=
  ⟨_, (if_pos hfits).trans (if_pos hgrid)⟩

/-- A `draw` that completes inverts the cells under its bits of 1: no cell is named twice, and all are
in the grid (R71). -/
theorem exec_draw_cell (h : exec (.draw x y n) s = .next t) (r c : Nat) :
    Frame.cell t.fb r c = (Frame.cell s.fb r c ^^ decide ((r, c) ∈ s.drawCells x y n)) := by
  obtain ⟨⟨_, hgrid⟩, rfl⟩ := exec_draw_next h
  exact Frame.cell_toggles _ _ (nodup_spriteCells _ _ _) hgrid r c

theorem exec_draw_cell_of_on (h : exec (.draw x y n) s = .next t) {r c : Nat}
    (hon : SpriteOn s x y n r c) : Frame.cell t.fb r c = !Frame.cell s.fb r c := by
  rw [exec_draw_cell h, decide_eq_true ((mem_drawCells_iff_spriteOn s x y n r c).2 hon), Bool.xor_true]

theorem exec_draw_cell_of_not_on (h : exec (.draw x y n) s = .next t) {r c : Nat}
    (hoff : ¬ SpriteOn s x y n r c) : Frame.cell t.fb r c = Frame.cell s.fb r c := by
  rw [exec_draw_cell h, decide_eq_false (mt (mem_drawCells_iff_spriteOn s x y n r c).1 hoff),
    Bool.xor_false]

/-- A `draw` that completes changes no register but `VF` (R71). -/
theorem exec_draw_regsBut (h : exec (.draw x y n) s = .next t) : RegsBut [VF] s t := fun _ hr =>
  exec_reg_of_not_dest h List.not_mem_nil fun hvf => absurd hvf (List.mem_singleton.not.1 hr)

/-- A `draw` that completes writes no byte of memory (R30). -/
theorem exec_draw_sameMemory (h : exec (.draw x y n) s = .next t) : SameMemory s t := fun a =>
  congrArg (fun u => Memory.read u.mem a) (exec_writtenBy h)

end

/-- Settles O2: the two tests in the order of R123, and what a `draw` that passes both has done. -/
theorem drawXorsTheSprite : Obligations.DrawXorsTheSprite := by
  refine ⟨fun w => decodeWord_eq_draw, fun x y n s => ⟨fun hmem => ?_, fun hfits hout => ?_,
    fun hfits hin => ?_⟩⟩
  · refine exec_draw_of_not_fits fun hfits => ?_
    have := (blockFits_iff_last_le _ _).1 hfits
    omega
  · refine exec_draw_of_off_grid ((blockFits_iff_last_le _ _).2 hfits) fun hgrid => ?_
    obtain ⟨r, c, hon, hoff⟩ := hout
    have := (all_inGrid_drawCells_iff s x y n).1 hgrid r c hon
    omega
  · obtain ⟨t, ht⟩ := exec_draw_completes ((blockFits_iff_last_le _ _).2 hfits)
      ((all_inGrid_drawCells_iff s x y n).2 hin)
    obtain ⟨hcollision, hnone⟩ := exec_reg_VF ht rfl List.not_mem_nil
    exact ⟨t, ht, fun _ _ => exec_draw_cell_of_on ht, fun _ _ => exec_draw_cell_of_not_on ht,
      hcollision, hnone, exec_draw_regsBut ht, exec_writtenBy ht, exec_draw_sameMemory ht⟩

end Sys2Proof.Machine

namespace Sys2Proof

/-! ### The words of the control transfers (R59) -/

section
variable {w : Word}

theorem decodeWord_eq_ret (h : w &&& 0xF00F = 0x000E) : decodeWord w = .ret := by
  obtain ⟨hop, hn⟩ := op_n_of_match w 0x000E h rfl
  rw [decodeWord, decodeGroup0, hop, hn]
  rfl

theorem decodeWord_eq_jump (h : w &&& 0xF000 = 0x1000) : decodeWord w = .jump (fieldNNN w) := by
  rw [decodeWord, op_of_match w 0x1000 h rfl]
  rfl

theorem decodeWord_eq_call (h : w &&& 0xF000 = 0x2000) : decodeWord w = .call (fieldNNN w) := by
  rw [decodeWord, op_of_match w 0x2000 h rfl]
  rfl

theorem decodeWord_eq_skipEqImm (h : w &&& 0xF000 = 0x3000) :
    decodeWord w = .skipEqImm (fieldX w) (fieldKK w) := by
  rw [decodeWord, op_of_match w 0x3000 h rfl]
  rfl

theorem decodeWord_eq_skipNeqImm (h : w &&& 0xF000 = 0x4000) :
    decodeWord w = .skipNeqImm (fieldX w) (fieldKK w) := by
  rw [decodeWord, op_of_match w 0x4000 h rfl]
  rfl

theorem decodeWord_eq_skipEqReg (h : w &&& 0xF000 = 0x5000) :
    decodeWord w = .skipEqReg (fieldX w) (fieldY w) := by
  rw [decodeWord, op_of_match w 0x5000 h rfl]
  rfl

theorem decodeWord_eq_skipNeqReg (h : w &&& 0xF000 = 0x9000) :
    decodeWord w = .skipNeqReg (fieldX w) (fieldY w) := by
  rw [decodeWord, op_of_match w 0x9000 h rfl]
  rfl

theorem decodeWord_eq_jumpOffset (h : w &&& 0xF000 = 0xB000) :
    decodeWord w = .jumpOffset (fieldNNN w) := by
  rw [decodeWord, op_of_match w 0xB000 h rfl]
  rfl

end

end Sys2Proof

namespace Sys2Proof.Machine

/-! ### `return` and `call`: the guard on `sp` (R75, R77) -/

section
variable {s : State} {nnn : Addr}

theorem exec_ret_of_empty (hsp : s.sp.val = 0) : exec .ret s = .fault .stackUnderflow :=
  if_pos hsp

theorem exec_ret_of_nonempty (hsp : s.sp.val ≠ 0) : exec .ret s = .next s.popToPc :=
  if_neg hsp

theorem exec_call_of_full (hsp : s.sp.val = 16) : exec (.call nnn) s = .fault .stackOverflow :=
  if_pos hsp

theorem exec_call_of_not_full (hsp : s.sp.val ≠ 16) :
    exec (.call nnn) s = .next ((s.push s.pc).setPc (addrOperand nnn)) :=
  if_neg hsp

end

/-- Settles O4: the two sides of the guard on `sp`; a pop writes `sp` and `pc` alone. -/
theorem returnPopsTheStack : Obligations.ReturnPopsTheStack :=
  ⟨fun _ => decodeWord_eq_ret, fun s => ⟨exec_ret_of_empty, fun hsp =>
    ⟨s.popToPc, exec_ret_of_nonempty hsp, s.popToPc_sp_val, rfl, rfl, fun _ => rfl⟩⟩⟩

/-- Settles O6: the two sides of the guard on `sp`; below the guard the push is in bounds, so it writes
entry `sp`, and the jump that follows leaves the stack alone. -/
theorem callPushesTheReturnAddress : Obligations.CallPushesTheReturnAddress := by
  refine ⟨fun _ => decodeWord_eq_call, fun nnn s => ⟨exec_call_of_full, fun hsp => ?_⟩⟩
  have hlt : s.sp.val < 16 := by omega
  refine ⟨_, exec_call_of_not_full hsp, ?_, fun j hj => ?_, s.push_sp_val hlt s.pc,
    addrOperand_toNat nnn, rfl, fun _ => rfl⟩
  · rw [State.stackEntry_setPc, s.stackEntry_push hlt, if_pos rfl]
  · rw [State.stackEntry_setPc, s.stackEntry_push hlt, if_neg hj]

/-! ### The instructions that write `pc` alone -/

theorem onlyPc_setPc (s : State) (v : Word) : OnlyPc s (s.setPc v) := ⟨rfl, fun _ => rfl⟩

/-- The target of a `jump-offset`: two operands this narrow have a sum that does not wrap (R82). -/
theorem byteOperand_add_addrOperand_toNat (v : Byte) (nnn : Addr) :
    (byteOperand v + addrOperand nnn).toNat = v.toNat + nnn.toNat := by
  rw [BitVec.toNat_add, byteOperand_toNat, addrOperand_toNat]
  omega

/-- Settles O5: the target is the operand, widened. -/
theorem jumpWritesPc : Obligations.JumpWritesPc :=
  ⟨fun _ => decodeWord_eq_jump,
    fun nnn s => ⟨_, rfl, addrOperand_toNat nnn, onlyPc_setPc s _⟩⟩

/-- Settles O11: the target is the sum over the integers. -/
theorem jumpOffsetAddsV0 : Obligations.JumpOffsetAddsV0 :=
  ⟨fun _ => decodeWord_eq_jumpOffset,
    fun nnn s => ⟨_, rfl, byteOperand_add_addrOperand_toNat (s.reg V0) nnn, onlyPc_setPc s _⟩⟩

/-! ### Skips (R83) -/

/-- What an instruction does whose meaning is a skip: `pc` moves by 2 when its condition is true, stays
when it is false, and nothing else changes. -/
theorem exec_skips {i : Instr} {s : State} {c : Bool} {skip stay : Prop}
    (h : exec i s = .next (s.skipIf c)) (hskip : skip → c = true) (hstay : stay → c = false) :
    ∃ t, exec i s = .next t ∧ (skip → t.pc = s.pc + 2) ∧ (stay → t.pc = s.pc) ∧ OnlyPc s t := by
  refine ⟨s.skipIf c, h, fun hs => ?_, fun hs => ?_, onlyPc_setPc s _⟩
  · rw [State.skipIf_pc, if_pos (hskip hs)]
  · rw [State.skipIf_pc, if_neg (Bool.eq_false_iff.1 (hstay hs))]

/-- A skip on an equality. -/
theorem exec_skips_of_eq {i : Instr} {s : State} {a b : Byte}
    (h : exec i s = .next (s.skipIf (a = b))) :
    ∃ t, exec i s = .next t ∧ (a = b → t.pc = s.pc + 2) ∧ (a ≠ b → t.pc = s.pc) ∧ OnlyPc s t :=
  exec_skips h decide_eq_true decide_eq_false

/-- A skip on a difference. -/
theorem exec_skips_of_ne {i : Instr} {s : State} {a b : Byte}
    (h : exec i s = .next (s.skipIf (a ≠ b))) :
    ∃ t, exec i s = .next t ∧ (a ≠ b → t.pc = s.pc + 2) ∧ (a = b → t.pc = s.pc) ∧ OnlyPc s t :=
  exec_skips h decide_eq_true fun heq => decide_eq_false (not_not_intro heq)

/-- Settles O7: the meaning is a skip on the equality of the register and the immediate. -/
theorem skipEqImmSkipsOnEqual : Obligations.SkipEqImmSkipsOnEqual :=
  ⟨fun _ => decodeWord_eq_skipEqImm, fun _ _ _ => exec_skips_of_eq rfl⟩

/-- Settles O8: the meaning is a skip on the difference of the register and the immediate. -/
theorem skipNeqImmSkipsOnDifferent : Obligations.SkipNeqImmSkipsOnDifferent :=
  ⟨fun _ => decodeWord_eq_skipNeqImm, fun _ _ _ => exec_skips_of_ne rfl⟩

/-- Settles O9: the meaning is a skip on the equality of the two registers. -/
theorem skipEqRegSkipsOnEqual : Obligations.SkipEqRegSkipsOnEqual :=
  ⟨fun _ => decodeWord_eq_skipEqReg, fun _ _ _ => exec_skips_of_eq rfl⟩

/-- Settles O10: the meaning is a skip on the difference of the two registers. -/
theorem skipNeqRegSkipsOnDifferent : Obligations.SkipNeqRegSkipsOnDifferent :=
  ⟨fun _ => decodeWord_eq_skipNeqReg, fun _ _ _ => exec_skips_of_ne rfl⟩

end Sys2Proof.Machine

namespace Sys2Proof

/-! ### The words of the loads, arithmetic and logic (R59) -/

section
variable {w p : Word}

theorem decodeWord_eq_loadImm (h : w &&& 0xF000 = 0x6000) :
    decodeWord w = .loadImm (fieldX w) (fieldKK w) := by
  rw [decodeWord, op_of_match w 0x6000 h rfl]
  rfl

theorem decodeWord_eq_addImm (h : w &&& 0xF000 = 0x7000) :
    decodeWord w = .addImm (fieldX w) (fieldKK w) := by
  rw [decodeWord, op_of_match w 0x7000 h rfl]
  rfl

theorem decodeWord_eq_rand (h : w &&& 0xF000 = 0xC000) :
    decodeWord w = .rand (fieldX w) (fieldKK w) := by
  rw [decodeWord, op_of_match w 0xC000 h rfl]
  rfl

/-- A word that matches a row of group 0x8 decodes by that group, on the row's low nibble (R50). -/
theorem decodeWord_group8 (h : w &&& 0xF00F = p) (hp : p &&& 0xF00F = p) (hop : fieldOP p = 0x8) :
    decodeWord w = decodeGroup8 w ∧ fieldN w = fieldN p := by
  obtain ⟨hwop, hn⟩ := op_n_of_match w p h hp
  refine ⟨?_, hn⟩
  rw [decodeWord, hwop, hop]
  rfl

theorem decodeWord_eq_loadReg (h : w &&& 0xF00F = 0x8000) :
    decodeWord w = .loadReg (fieldX w) (fieldY w) := by
  obtain ⟨hgroup, hn⟩ := decodeWord_group8 h rfl rfl
  rw [hgroup, decodeGroup8, hn]
  rfl

theorem decodeWord_eq_orReg (h : w &&& 0xF00F = 0x8001) :
    decodeWord w = .orReg (fieldX w) (fieldY w) := by
  obtain ⟨hgroup, hn⟩ := decodeWord_group8 h rfl rfl
  rw [hgroup, decodeGroup8, hn]
  rfl

theorem decodeWord_eq_andReg (h : w &&& 0xF00F = 0x8002) :
    decodeWord w = .andReg (fieldX w) (fieldY w) := by
  obtain ⟨hgroup, hn⟩ := decodeWord_group8 h rfl rfl
  rw [hgroup, decodeGroup8, hn]
  rfl

theorem decodeWord_eq_xorReg (h : w &&& 0xF00F = 0x8003) :
    decodeWord w = .xorReg (fieldX w) (fieldY w) := by
  obtain ⟨hgroup, hn⟩ := decodeWord_group8 h rfl rfl
  rw [hgroup, decodeGroup8, hn]
  rfl

theorem decodeWord_eq_addReg (h : w &&& 0xF00F = 0x8004) :
    decodeWord w = .addReg (fieldX w) (fieldY w) := by
  obtain ⟨hgroup, hn⟩ := decodeWord_group8 h rfl rfl
  rw [hgroup, decodeGroup8, hn]
  rfl

theorem decodeWord_eq_sub (h : w &&& 0xF00F = 0x8005) :
    decodeWord w = .sub (fieldX w) (fieldY w) := by
  obtain ⟨hgroup, hn⟩ := decodeWord_group8 h rfl rfl
  rw [hgroup, decodeGroup8, hn]
  rfl

theorem decodeWord_eq_shr (h : w &&& 0xF00F = 0x8006) : decodeWord w = .shr (fieldX w) := by
  obtain ⟨hgroup, hn⟩ := decodeWord_group8 h rfl rfl
  rw [hgroup, decodeGroup8, hn]
  rfl

theorem decodeWord_eq_subn (h : w &&& 0xF00F = 0x8007) :
    decodeWord w = .subn (fieldX w) (fieldY w) := by
  obtain ⟨hgroup, hn⟩ := decodeWord_group8 h rfl rfl
  rw [hgroup, decodeGroup8, hn]
  rfl

theorem decodeWord_eq_shl (h : w &&& 0xF00F = 0x800E) : decodeWord w = .shl (fieldX w) := by
  obtain ⟨hgroup, hn⟩ := decodeWord_group8 h rfl rfl
  rw [hgroup, decodeGroup8, hn]
  rfl

end

end Sys2Proof

namespace Sys2Proof.Machine

/-! ### Arithmetic of bytes and flags as numbers -/

theorem toNat_byte_sub (a b : Byte) : (a - b).toNat = (a.toNat + 256 - b.toNat) % 256 := by
  have hb := b.isLt
  rw [BitVec.toNat_sub]
  omega

theorem toNat_byte_shiftRight_one (a : Byte) : (a >>> 1).toNat = a.toNat / 2 := by
  rw [BitVec.toNat_ushiftRight, Nat.shiftRight_eq_div_pow, Nat.pow_one]

theorem toNat_byte_shiftLeft_one (a : Byte) : (a <<< 1).toNat = 2 * a.toNat % 256 := by
  rw [BitVec.toNat_shiftLeft, Nat.shiftLeft_eq, Nat.pow_one, Nat.mul_comm]

/-- The flag byte of a condition (R11). -/
theorem flagByte_decide (c : Prop) [Decidable c] : flagByte (decide c) = if c then 1 else 0 := by
  simp only [flagByte, decide_eq_true_iff]

theorem greaterFlag_eq (a b : Byte) : greaterFlag a b = if a.toNat > b.toNat then 1 else 0 :=
  flagByte_decide _

theorem carryFlag_eq (a b : Byte) : carryFlag a b = if a.toNat + b.toNat > 255 then 1 else 0 :=
  flagByte_decide _

/-! ### Instructions that write one register -/

theorem State.reg_setReg_same (s : State) (x : Reg) (v : Byte) : (s.setReg x v).reg x = v := by
  rw [State.reg_setReg, if_pos rfl]

theorem regsBut_setReg (s : State) (x : Reg) (v : Byte) : RegsBut [x] s (s.setReg x v) :=
  fun _ hr => by rw [State.reg_setReg, if_neg (List.mem_singleton.not.1 hr)]

theorem onlyRegs_setReg (s : State) (x : Reg) (v : Byte) : OnlyRegs s (s.setReg x v) :=
  ⟨rfl, fun _ => rfl⟩

section
variable {i : Instr} {s : State} {x : Reg} {v : Byte}

/-- What an instruction does whose meaning is one register write. -/
theorem exec_writes_reg (h : exec i s = .next (s.setReg x v)) :
    ∃ t, exec i s = .next t ∧ t.reg x = v ∧ RegsBut [x] s t ∧ OnlyRegs s t :=
  ⟨_, h, s.reg_setReg_same x v, regsBut_setReg s x v, onlyRegs_setReg s x v⟩

/-- One register write, of a value known bit by bit. -/
theorem exec_writes_bits {bit : Nat → Bool} (h : exec i s = .next (s.setReg x v))
    (hbit : ∀ k, v.getLsbD k = bit k) :
    ∃ t, exec i s = .next t ∧ (∀ k, (t.reg x).getLsbD k = bit k) ∧ RegsBut [x] s t ∧ OnlyRegs s t := by
  obtain ⟨t, ht, rfl, hframe⟩ := exec_writes_reg h
  exact ⟨t, ht, hbit, hframe⟩

/-- One register write, of a value known as a number. -/
theorem exec_writes_number {n : Nat} (h : exec i s = .next (s.setReg x v)) (hn : v.toNat = n) :
    ∃ t, exec i s = .next t ∧ (t.reg x).toNat = n ∧ RegsBut [x] s t ∧ OnlyRegs s t := by
  obtain ⟨t, ht, rfl, hframe⟩ := exec_writes_reg h
  exact ⟨t, ht, hn, hframe⟩

end

/-- Settles O13: the meaning writes the immediate to the register. -/
theorem loadImmWritesTheImmediate : Obligations.LoadImmWritesTheImmediate :=
  ⟨fun _ => decodeWord_eq_loadImm, fun _ _ _ => exec_writes_reg rfl⟩

/-- Settles O14: the meaning writes the sum of bytes, which is the sum modulo 256. -/
theorem addImmAddsWithoutFlag : Obligations.AddImmAddsWithoutFlag :=
  ⟨fun _ => decodeWord_eq_addImm,
    fun _ _ _ => exec_writes_number rfl (BitVec.toNat_add _ _)⟩

/-- Settles O15: the meaning writes the one register's value to the other. -/
theorem loadRegCopies : Obligations.LoadRegCopies :=
  ⟨fun _ => decodeWord_eq_loadReg, fun _ _ _ => exec_writes_reg rfl⟩

/-- Settles O16: the meaning writes the bitwise or. -/
theorem orIsBitwise : Obligations.OrIsBitwise :=
  ⟨fun _ => decodeWord_eq_orReg, fun _ _ _ => exec_writes_bits rfl fun _ => BitVec.getLsbD_or⟩

/-- Settles O17: the meaning writes the bitwise and. -/
theorem andIsBitwise : Obligations.AndIsBitwise :=
  ⟨fun _ => decodeWord_eq_andReg, fun _ _ _ => exec_writes_bits rfl fun _ => BitVec.getLsbD_and⟩

/-- Settles O18: the meaning writes the bitwise exclusive or. -/
theorem xorIsBitwise : Obligations.XorIsBitwise :=
  ⟨fun _ => decodeWord_eq_xorReg, fun _ _ _ => exec_writes_bits rfl fun _ => BitVec.getLsbD_xor⟩

/-- Settles O24: the random byte is the one the state holds for the cycle, and the meaning masks it. -/
theorem randMasksTheRandomByte : Obligations.RandMasksTheRandomByte := by
  refine ⟨fun _ => decodeWord_eq_rand, ?_⟩
  rintro x kk r s rfl
  exact exec_writes_bits rfl fun _ => BitVec.getLsbD_and

/-! ### Instructions that write the flag, then the result (R97) -/

/-- What a later read of the same instruction finds once the flag is written. -/
theorem State.reg_setReg_VF (s : State) (f : Byte) (r : Reg) :
    (s.setReg VF f).reg r = regAfterFlag s f r :=
  s.reg_setReg VF r f

/-- What an instruction does that writes a flag to `VF` and then a result, known as a number, to `x`: the
result wins when `x` is `VF`. -/
theorem exec_writes_flag_then_number {i : Instr} {s : State} {x : Reg} {f v : Byte} {n : Nat}
    (h : exec i s = .next ((s.setReg VF f).setReg x v)) (hn : v.toNat = n) :
    ∃ t, exec i s = .next t ∧ (t.reg x).toNat = n ∧ (x ≠ VF → t.reg VF = f) ∧
      RegsBut [x, VF] s t ∧ OnlyRegs s t := by
  refine ⟨_, h, ?_, fun hx => ?_, fun r hr => ?_, rfl, fun _ => rfl⟩
  · rw [State.reg_setReg_same, hn]
  · exact s.reg_VF_setReg_of_ne (mt List.mem_singleton.1 hx.symm) v f
  · obtain ⟨hrx, hrvf⟩ := not_or.1 (mt List.mem_cons.2 hr)
    exact s.reg_setReg_VF_of_ne (mt List.mem_singleton.1 hrx) (List.mem_singleton.not.1 hrvf) v f

/-- Settles O19: the sum is formed from the operands as they are before the flag is written. -/
theorem addRegAddsWithCarry : Obligations.AddRegAddsWithCarry := by
  refine ⟨fun _ => decodeWord_eq_addReg, fun x y s => ?_⟩
  rw [← carryFlag_eq]
  exact exec_writes_flag_then_number rfl (BitVec.toNat_add _ _)

/-- Settles O20: the difference is formed from the operands as the write of the flag left them. -/
theorem subSubtractsAfterTheFlag : Obligations.SubSubtractsAfterTheFlag := by
  refine ⟨fun _ => decodeWord_eq_sub, fun x y s f hf => ?_⟩
  obtain rfl : f = greaterFlag (s.reg x) (s.reg y) := hf.trans (greaterFlag_eq _ _).symm
  refine exec_writes_flag_then_number rfl ?_
  rw [toNat_byte_sub, State.reg_setReg_VF, State.reg_setReg_VF]

/-- Settles O21: the shift takes the register as the write of the flag left it. -/
theorem shrShiftsAfterTheFlag : Obligations.ShrShiftsAfterTheFlag := by
  refine ⟨fun _ => decodeWord_eq_shr, fun x s f hf => ?_⟩
  obtain rfl : f = lowBitFlag (s.reg x) := hf
  refine exec_writes_flag_then_number rfl ?_
  rw [toNat_byte_shiftRight_one, State.reg_setReg_VF]

/-- Settles O22: the difference is formed from the operands as the write of the flag left them. -/
theorem subnSubtractsAfterTheFlag : Obligations.SubnSubtractsAfterTheFlag := by
  refine ⟨fun _ => decodeWord_eq_subn, fun x y s f hf => ?_⟩
  obtain rfl : f = greaterFlag (s.reg y) (s.reg x) := hf.trans (greaterFlag_eq _ _).symm
  refine exec_writes_flag_then_number rfl ?_
  rw [toNat_byte_sub, State.reg_setReg_VF, State.reg_setReg_VF]

/-- Settles O23: the shift takes the register as the write of the flag left it. -/
theorem shlShiftsAfterTheFlag : Obligations.ShlShiftsAfterTheFlag := by
  refine ⟨fun _ => decodeWord_eq_shl, fun x s f hf => ?_⟩
  obtain rfl : f = highBitFlag (s.reg x) := hf
  refine exec_writes_flag_then_number rfl ?_
  rw [toNat_byte_shiftLeft_one, State.reg_setReg_VF]

end Sys2Proof.Machine

namespace Sys2Proof

/-! ### The words of the index register and memory (R59) -/

section
variable {w p : Word}

theorem decodeWord_eq_loadIndex (h : w &&& 0xF000 = 0xA000) :
    decodeWord w = .loadIndex (fieldNNN w) := by
  rw [decodeWord, op_of_match w 0xA000 h rfl]
  rfl

/-- A word that matches a row of group 0xF decodes by that group, on the row's low byte (R52). -/
theorem decodeWord_groupF (h : w &&& 0xF0FF = p) (hp : p &&& 0xF0FF = p) (hop : fieldOP p = 0xF) :
    decodeWord w = decodeGroupF w ∧ fieldKK w = fieldKK p := by
  obtain ⟨hwop, hkk⟩ := op_kk_of_match w p h hp
  refine ⟨?_, hkk⟩
  rw [decodeWord, hwop, hop]
  rfl

theorem decodeWord_eq_fontChar (h : w &&& 0xF0FF = 0xF029) : decodeWord w = .fontChar (fieldX w) := by
  obtain ⟨hgroup, hkk⟩ := decodeWord_groupF h rfl rfl
  rw [hgroup, decodeGroupF, hkk]
  rfl

theorem decodeWord_eq_bcd (h : w &&& 0xF0FF = 0xF033) : decodeWord w = .bcd (fieldX w) := by
  obtain ⟨hgroup, hkk⟩ := decodeWord_groupF h rfl rfl
  rw [hgroup, decodeGroupF, hkk]
  rfl

theorem decodeWord_eq_storeRegs (h : w &&& 0xF0FF = 0xF055) :
    decodeWord w = .storeRegs (fieldX w) := by
  obtain ⟨hgroup, hkk⟩ := decodeWord_groupF h rfl rfl
  rw [hgroup, decodeGroupF, hkk]
  rfl

theorem decodeWord_eq_loadRegs (h : w &&& 0xF0FF = 0xF065) :
    decodeWord w = .loadRegs (fieldX w) := by
  obtain ⟨hgroup, hkk⟩ := decodeWord_groupF h rfl rfl
  rw [hgroup, decodeGroupF, hkk]
  rfl

end

end Sys2Proof

namespace Sys2Proof.Machine

/-! ### Instructions that write `I` alone -/

/-- What an instruction does whose meaning is one write of `I`, of a value known as a number. -/
theorem exec_writes_index {i : Instr} {s : State} {v : Word} {n : Nat}
    (h : exec i s = .next (s.setIndex v)) (hn : v.toNat = n) :
    ∃ t, exec i s = .next t ∧ t.i.toNat = n ∧ OnlyIndex s t :=
  ⟨_, h, hn, rfl, fun _ => rfl⟩

/-- Settles O25: the address is the operand, widened. -/
theorem loadIndexWritesTheAddress : Obligations.LoadIndexWritesTheAddress :=
  ⟨fun _ => decodeWord_eq_loadIndex, fun nnn _ => exec_writes_index rfl (addrOperand_toNat nnn)⟩

/-- Settles O27: the address of the last glyph fits in `I`, so the sum is over the integers. -/
theorem fontCharPointsAtTheGlyph : Obligations.FontCharPointsAtTheGlyph :=
  ⟨fun _ => decodeWord_eq_fontChar,
    fun x s => exec_writes_index rfl (glyphAddress_toNat (s.reg x))⟩

/-! ### The guard of the instructions that use the block `I` to `I + n` (R32, R106) -/

/-- What an instruction does whose meaning is guarded by the fit of a block of `n + 1` bytes: it faults
when the last address is outside memory, and otherwise completes in the guarded state. -/
theorem exec_guarded_by_block {i : Instr} {s t : State} {n : Nat} {P : State → Prop}
    (h : exec i s = if blockFits s.i (n + 1) then .next t else .fault .memOutOfBounds) (ht : P t) :
    (s.i.toNat + n > 4095 → exec i s = .fault .memOutOfBounds) ∧
    (s.i.toNat + n ≤ 4095 → ∃ u, exec i s = .next u ∧ P u) := by
  refine ⟨fun hout => h.trans (if_neg fun hfits => ?_), fun hin => ⟨t, h.trans (if_pos ?_), ht⟩⟩
  · have := (blockFits_iff_last_le _ _).1 hfits
    omega
  · exact (blockFits_iff_last_le _ _).2 (.inr hin)

/-! ### What a block of `n + 1` bytes stored at `I` leaves to read (R103, R104) -/

section
variable (s : State) {bs : List Byte} {n : Nat}

theorem State.read_storeAtIndex_inside (hlen : bs.length = n + 1) {k : Nat} (hk : k ≤ n) :
    Memory.read (s.storeAtIndex bs).mem (s.i.toNat + k) = bs.getD k 0 := by
  rw [State.read_storeAtIndex, if_pos (by omega), Nat.add_sub_cancel_left]

theorem State.read_storeAtIndex_outside (hlen : bs.length = n + 1) {a : Nat}
    (ha : a < s.i.toNat ∨ a > s.i.toNat + n) :
    Memory.read (s.storeAtIndex bs).mem a = Memory.read s.mem a := by
  rw [State.read_storeAtIndex, if_neg (by omega)]

end

/-! ### The values that are stored and loaded -/

/-- The three digits as numbers: each fits in a byte (R103). -/
theorem map_toNat_bcdDigits (v : Byte) :
    (bcdDigits v).map BitVec.toNat = [v.toNat / 100, v.toNat / 10 % 10, v.toNat % 10] := by
  have hhundreds : v.toNat / 100 < 2 ^ 8 := by omega
  have htens : v.toNat / 10 % 10 < 2 ^ 8 := by omega
  have hones : v.toNat % 10 < 2 ^ 8 := by omega
  simp only [bcdDigits, List.map_cons, List.map_nil, BitVec.toNat_ofNat, Nat.mod_eq_of_lt hhundreds,
    Nat.mod_eq_of_lt htens, Nat.mod_eq_of_lt hones]

/-- The digit stored at `I + k` as a number. -/
theorem State.read_storeAtIndex_bcdDigits (s : State) (v : Byte) {k : Nat} (hk : k ≤ 2) :
    (Memory.read (s.storeAtIndex (bcdDigits v)).mem (s.i.toNat + k)).toNat =
      [v.toNat / 100, v.toNat / 10 % 10, v.toNat % 10].getD k 0 := by
  rw [s.read_storeAtIndex_inside (length_bcdDigits v) hk, ← map_toNat_bcdDigits]
  exact (List.getD_map (bcdDigits v) 0 BitVec.toNat).symm

/-- A register of the block is stored at its own place in the block (R104). -/
theorem State.read_storeAtIndex_regsUpTo (s : State) {x r : Reg} (hr : r ≤ x) :
    Memory.read (s.storeAtIndex (s.regsUpTo x)).mem (s.i.toNat + r.val) = s.reg r := by
  rw [s.read_storeAtIndex_inside (s.length_regsUpTo x) hr, s.getD_regsUpTo x r.val hr,
    Fin.ofNat_val_eq_self]

/-- A block load writes no byte of memory and nothing else but registers (R105). -/
theorem onlyRegs_loadRegsUpTo (s : State) (x : Reg) : OnlyRegs s (s.loadRegsUpTo x) :=
  ⟨s.loadRegsUpTo_eq x, fun a => congrArg (fun t => Memory.read t.mem a) (s.loadRegsUpTo_eq x)⟩

/-! ### `bcd`, `store-regs` and `load-regs` -/

/-- Settles O28: the block is the three digits, at `I`, `I + 1` and `I + 2`. -/
theorem bcdStoresTheDigits : Obligations.BcdStoresTheDigits := by
  refine ⟨fun _ => decodeWord_eq_bcd, fun x s => exec_guarded_by_block rfl ⟨?_, ?_, ?_, ?_, rfl⟩⟩
  · exact s.read_storeAtIndex_bcdDigits (s.reg x) (k := 0) (by decide)
  · exact s.read_storeAtIndex_bcdDigits (s.reg x) (k := 1) (by decide)
  · exact s.read_storeAtIndex_bcdDigits (s.reg x) (k := 2) (by decide)
  · exact fun _ => s.read_storeAtIndex_outside (length_bcdDigits (s.reg x))

/-- Settles O29: the block is the registers up to `X`, in order. -/
theorem storeRegsStoresTheBlock : Obligations.StoreRegsStoresTheBlock :=
  ⟨fun _ => decodeWord_eq_storeRegs, fun x s => exec_guarded_by_block rfl
    ⟨fun _ => s.read_storeAtIndex_regsUpTo,
      fun _ => s.read_storeAtIndex_outside (s.length_regsUpTo x), rfl⟩⟩

/-- Settles O30: the registers up to `X` come from the block; the higher ones are not written. -/
theorem loadRegsLoadsTheBlock : Obligations.LoadRegsLoadsTheBlock :=
  ⟨fun _ => decodeWord_eq_loadRegs, fun x s => exec_guarded_by_block rfl
    ⟨fun r hr => (s.reg_loadRegsUpTo x r).trans (if_pos hr),
      fun r hr => (s.reg_loadRegsUpTo x r).trans (if_neg (Nat.not_le.2 hr)),
      onlyRegs_loadRegsUpTo s x⟩⟩

end Sys2Proof.Machine

namespace Sys2Proof

/-! ### The words of the keypad instructions and of the read of the delay timer (R59) -/

section
variable {w : Word}

theorem decodeWord_eq_skipKey (h : w &&& 0xF00F = 0xE00E) : decodeWord w = .skipKey (fieldX w) := by
  obtain ⟨hop, hn⟩ := op_n_of_match w 0xE00E h rfl
  rw [decodeWord, decodeGroupE, hop, hn]
  rfl

theorem decodeWord_eq_skipNotKey (h : w &&& 0xF00F = 0xE001) :
    decodeWord w = .skipNotKey (fieldX w) := by
  obtain ⟨hop, hn⟩ := op_n_of_match w 0xE001 h rfl
  rw [decodeWord, decodeGroupE, hop, hn]
  rfl

theorem decodeWord_eq_readDelay (h : w &&& 0xF0FF = 0xF007) :
    decodeWord w = .readDelay (fieldX w) := by
  obtain ⟨hgroup, hkk⟩ := decodeWord_groupF h rfl rfl
  rw [hgroup, decodeGroupF, hkk]
  rfl

theorem decodeWord_eq_waitKey (h : w &&& 0xF0FF = 0xF00A) : decodeWord w = .waitKey (fieldX w) := by
  obtain ⟨hgroup, hkk⟩ := decodeWord_groupF h rfl rfl
  rw [hgroup, decodeGroupF, hkk]
  rfl

end

end Sys2Proof

namespace Sys2Proof.Machine

/-! ### `wait-key` -/

section
variable {s : State} {x : Reg}

theorem exec_waitKey_of_no_key (hkey : s.key = 0) :
    exec (.waitKey x) s = .next (s.setPc (s.pc - 2)) :=
  congrArg Host.Outcome.next (if_pos hkey)

theorem exec_waitKey_of_key (hkey : s.key ≠ 0) :
    exec (.waitKey x) s = .next (s.setReg x (lowestKey s.key)) :=
  congrArg Host.Outcome.next (if_neg hkey)

end

/-- Going back undoes the advance of the same cycle, so the next cycle fetches from the same address
(R62, R113). -/
theorem State.advance_setPc_back (s : State) (w : Word) :
    (s.advance w).setPc ((s.advance w).pc - 2) = { s with ir := w } :=
  congrArg (s.advance w).setPc (BitVec.add_sub_cancel s.pc 2)

/-- Settles O35: the two sides of the test for a pressed key; the cycle that waits is the fetch, the way
back and the tick. -/
theorem waitKeyWaitsOrLoadsTheLeastKey : Obligations.WaitKeyWaitsOrLoadsTheLeastKey := by
  refine ⟨fun _ => decodeWord_eq_waitKey, fun x s => ⟨fun hkey => ?_, fun hkey => ?_⟩,
    fun x w s hrun hw hdecode hkey => ?_⟩
  · exact ⟨_, exec_waitKey_of_no_key hkey, rfl, onlyPc_setPc s _⟩
  · obtain ⟨t, ht, hreg, hframe⟩ := exec_writes_reg (exec_waitKey_of_key (x := x) hkey)
    obtain ⟨hle, hpressed, hleast⟩ := lowestKey_spec s.key hkey
    rw [← hreg] at hle hpressed hleast
    exact ⟨t, ht, hle, hpressed, hleast, hframe⟩
  · have hexec : exec (decodeWord w) (s.advance w) = .next { s with ir := w } := by
      rw [hdecode, exec_waitKey_of_no_key (s := s.advance w) hkey, State.advance_setPc_back]
    exact ⟨_, cycle_of_exec_next hrun hw hexec, rfl, tickTimer_toNat s.dt, tickTimer_toNat s.st⟩

/-! ### `skip-key` and `skip-notkey` -/

/-- What an instruction does whose meaning is a skip guarded by a register that must hold the number of a
key: it faults on a number above 15, and otherwise is the skip (R110, R111). -/
theorem exec_skips_if_key {i : Instr} {s : State} {v : Byte} {c : Bool} {skip stay : Prop}
    (h : exec i s = if isKey v then .next (s.skipIf c) else .fault .keyIndexOutOfRange)
    (hskip : skip → c = true) (hstay : stay → c = false) :
    (v.toNat > 15 → exec i s = .fault .keyIndexOutOfRange) ∧
    (v.toNat ≤ 15 → ∃ t, exec i s = .next t ∧
      (skip → t.pc = s.pc + 2) ∧ (stay → t.pc = s.pc) ∧ OnlyPc s t) := by
  refine ⟨fun hout => h.trans (if_neg ?_), fun hin => exec_skips (h.trans (if_pos ?_)) hskip hstay⟩
  · exact mt (isKey_iff v).1 (Nat.not_le.2 hout)
  · exact (isKey_iff v).2 hin

/-- Settles O32: the condition of the skip is the key's bit of the snapshot. -/
theorem skipKeySkipsWhenPressed : Obligations.SkipKeySkipsWhenPressed :=
  ⟨fun _ => decodeWord_eq_skipKey, fun _ _ => exec_skips_if_key rfl id id⟩

/-- Settles O33: the condition of the skip is the negation of the key's bit of the snapshot. -/
theorem skipNotKeySkipsWhenReleased : Obligations.SkipNotKeySkipsWhenReleased :=
  ⟨fun _ => decodeWord_eq_skipNotKey,
    fun _ _ => exec_skips_if_key rfl (congrArg not) (congrArg not)⟩

/-! ### `read-delay` -/

/-- Settles O34: the meaning writes `dt`, which the fetch leaves alone, and the tick comes after it. -/
theorem readDelayReadsBeforeTheTick : Obligations.ReadDelayReadsBeforeTheTick := by
  refine ⟨fun _ => decodeWord_eq_readDelay, fun _ _ => exec_writes_reg rfl,
    fun x w s hrun hw hdecode => ?_⟩
  have hexec : exec (decodeWord w) (s.advance w) = .next ((s.advance w).setReg x s.dt) := by
    rw [hdecode]
    rfl
  exact ⟨_, cycle_of_exec_next hrun hw hexec, State.reg_setReg_same _ x s.dt, tickTimer_toNat s.dt⟩

end Sys2Proof.Machine

namespace Sys2Proof.Machine

/-! ### When an instruction faults (R121) -/

section
variable {c P : Prop} [Decidable c] {t : State} {f g : Fault}

/-- An outcome guarded by a fault otherwise answers that fault alone, exactly when the guard fails. -/
theorem guard_eq_fault_iff (hc : ¬ c ↔ P) :
    (if c then .next t else .fault g : Host.Outcome State Fault Refusal) = .fault f ↔ f = g ∧ P := by
  by_cases h : c
  · rw [if_pos h]
    exact iff_of_false nofun fun ⟨_, hP⟩ => hc.2 hP h
  · rw [if_neg h, Host.Outcome.fault.injEq, eq_comm]
    exact (and_iff_left (hc.1 h)).symm

/-- An outcome behind a fault's condition answers that fault alone, exactly under the condition. -/
theorem faultGuard_eq_fault_iff :
    (if c then .fault g else .next t : Host.Outcome State Fault Refusal) = .fault f ↔ f = g ∧ c := by
  rw [← ite_not]
  exact guard_eq_fault_iff not_not

end

theorem not_blockFits_succ_iff (i : Word) (n : Nat) :
    ¬ blockFits i (n + 1) = true ↔ i.toNat + n > 4095 := by
  rw [blockFits_iff]
  omega

theorem not_blockFits_iff_last_gt (i : Word) (n : Nat) :
    ¬ blockFits i n = true ↔ n > 0 ∧ i.toNat + n - 1 > 4095 := by
  rw [blockFits_iff_last_le]
  omega

theorem not_isKey_iff (k : Byte) : ¬ isKey k = true ↔ k.toNat > 15 := by
  rw [isKey_iff, not_le]

/-- The grid test of a `draw` fails when some bit of 1 stands outside the grid (R71). -/
theorem not_all_inGrid_drawCells_iff (s : State) (x y : Reg) (n : Nibble) :
    ¬ (s.drawCells x y n).all inGrid = true ↔
      ∃ r c, SpriteOn s x y n r c ∧ (c > 63 ∨ r > 31) := by
  simp only [all_inGrid_drawCells_iff, not_forall, exists_prop, not_and_or, not_le]

/-- `draw` tests memory first, and the grid only when every byte lies in memory (R123). -/
theorem exec_draw_fault_iff (x y : Reg) (n : Nibble) (s : State) (f : Fault) :
    exec (.draw x y n) s = .fault f ↔ RaisesFault (.draw x y n) s f := by
  rw [RaisesFault]
  by_cases hfits : blockFits s.i n.toNat = true
  · rw [if_neg (mt (not_blockFits_iff_last_gt _ _).2 (not_not.2 hfits)),
      ← guard_eq_fault_iff (not_all_inGrid_drawCells_iff s x y n)]
    exact Eq.congr_left (if_pos hfits)
  · rw [if_pos ((not_blockFits_iff_last_gt _ _).1 hfits), exec_draw_of_not_fits hfits,
      Host.Outcome.fault.injEq, eq_comm]

/-- Settles O47: each instruction of R121's table is guarded by the condition the table gives it, `draw` by
two in order; every other instruction completes. -/
theorem faultsExactlyWhenR121Says : Obligations.FaultsExactlyWhenR121Says := by
  intro i s f
  cases i with
  | ret => exact faultGuard_eq_fault_iff
  | call nnn => exact faultGuard_eq_fault_iff
  | bcd x => exact guard_eq_fault_iff (not_blockFits_succ_iff s.i 2)
  | storeRegs x => exact guard_eq_fault_iff (not_blockFits_succ_iff s.i x.val)
  | loadRegs x => exact guard_eq_fault_iff (not_blockFits_succ_iff s.i x.val)
  | skipKey x => exact guard_eq_fault_iff (not_isKey_iff (s.reg x))
  | skipNotKey x => exact guard_eq_fault_iff (not_isKey_iff (s.reg x))
  | draw x y n => exact exec_draw_fault_iff x y n s f
  | clearScreen | jump | skipEqImm | skipNeqImm | skipEqReg | loadImm | addImm | loadReg | orReg
  | andReg | xorReg | addReg | sub | shr | subn | shl | skipNeqReg | loadIndex | jumpOffset | rand
  | readDelay | waitKey | setDelay | setSound | addIndex | fontChar | nopUnmapped =>
    exact iff_of_false nofun id

end Sys2Proof.Machine

namespace Sys2Proof.Machine

/-! ### The host's turn without a reset -/

/-- Settles O60: the turn presents its inputs to the state with the turn used up, and a timer that it does
not write keeps its value. -/
theorem hostTouchesOnlyInputsAndTimers : Obligations.HostTouchesOnlyInputsAndTimers := by
  intro s hboot
  rw [State.hostTurn_of_no_boot hboot, State.present_dt, State.present_st]
  refine ⟨rfl, fun h => ?_, fun v h => ?_, fun h => ?_, fun v h => ?_⟩
  all_goals
    rw [h]
    rfl

/-! ### Two equal draws -/

section
variable {s t : State} {x y : Reg} {n : Nibble}

/-- A `draw` whose place does not depend on `VF` leaves the place, `I` and the sprite's bytes, so an equal
draw after it lights the same cells (R71). -/
theorem exec_draw_drawCells (h : exec (.draw x y n) s = .next t) (hx : x ≠ VF) (hy : y ≠ VF) :
    t.drawCells x y n = s.drawCells x y n := by
  obtain ⟨_, rfl⟩ := exec_draw_next h
  simp only [State.drawCells, State.reg_setFrame, State.reg_setReg, if_neg hx, if_neg hy]
  rfl

/-- A `draw` that completed completes again: its tests read only what it left alone. -/
theorem exec_draw_again (h : exec (.draw x y n) s = .next t) (hx : x ≠ VF) (hy : y ≠ VF) :
    ∃ u, exec (.draw x y n) t = .next u := by
  obtain ⟨⟨hfits, hgrid⟩, ht⟩ := exec_draw_next h
  refine exec_draw_completes ?_ ?_
  · rw [ht]
    exact hfits
  · rw [exec_draw_drawCells h hx hy]
    exact hgrid

/-- The second of two equal draws meets a cell that is on exactly where the first met one that was off. -/
theorem exec_draw_collision_again (h : exec (.draw x y n) s = .next t) (hx : x ≠ VF) (hy : y ≠ VF) :
    (∃ r c, SpriteOn t x y n r c ∧ Frame.cell t.fb r c = true) ↔
      ∃ r c, SpriteOn s x y n r c ∧ Frame.cell s.fb r c = false := by
  refine exists₂_congr fun r c => ?_
  rw [← mem_drawCells_iff_spriteOn t, exec_draw_drawCells h hx hy, mem_drawCells_iff_spriteOn]
  refine and_congr_right fun hon => ?_
  rw [exec_draw_cell_of_on h hon, Bool.not_eq_true']

end

/-- Settles O3: the two draws invert the same cells, and the flag of the second is its collision. -/
theorem drawTwiceRestoresTheScreen : Obligations.DrawTwiceRestoresTheScreen := by
  intro x y n s t hx hy h
  obtain ⟨u, hu⟩ := exec_draw_again h hx hy
  have hflag := exec_reg_VF hu rfl List.not_mem_nil
  rw [exec_draw_collision_again h hx hy] at hflag
  refine ⟨u, hu, Frame.ext_cell _ _ fun r c => ?_, hflag⟩
  rw [exec_draw_cell hu, exec_draw_cell h, exec_draw_drawCells h hx hy, Bool.xor_assoc, Bool.xor_self,
    Bool.xor_false]

/-! ### A `call`, then a `return` -/

/-- A pop after a push takes the pushed value to `pc` and leaves nothing of the push but the entry that it
wrote, wherever a jump between the two went (R14, R75, R77). -/
theorem State.popToPc_setPc_push (s : State) (hsp : s.sp.val < 16) (v a : Word) :
    ((s.push v).setPc a).popToPc = { s with pc := v, stack := (s.push v).stack } := by
  have hval := s.push_sp_val hsp v
  have hentry : ((s.push v).setPc a).stackEntry ((s.push v).sp.val - 1) = v := by
    rw [State.stackEntry_setPc, s.stackEntry_push hsp, if_pos (by omega)]
  have hback : ((s.push v).setPc a).popToPc.sp = s.sp := by
    refine Fin.ext ?_
    rw [State.popToPc_sp_val, State.setPc_sp, hval, Nat.add_sub_cancel]
  exact State.ext rfl rfl hentry rfl hback rfl rfl rfl rfl rfl rfl rfl rfl rfl rfl rfl

/-- Settles O12: the pushed value is the `pc` at which the `call` executed. -/
theorem callThenReturnRestoresPc : Obligations.CallThenReturnRestoresPc := by
  intro nnn s t h
  obtain ⟨hsp, rfl⟩ := exec_call_next h
  have hlt : s.sp.val < 16 := by omega
  have hpushed : ((s.push s.pc).setPc (addrOperand nnn)).sp.val ≠ 0 := by
    rw [State.setPc_sp, s.push_sp_val hlt]
    exact Nat.succ_ne_zero _
  refine ⟨_, exec_ret_of_nonempty hpushed, ?_⟩
  rw [s.popToPc_setPc_push hlt]
  exact ⟨rfl, rfl, rfl⟩

/-! ### A `store-regs`, then a `load-regs` -/

/-- Settles O31: the load finds the block where the store left it, for a change of the registers moves
neither `I` nor memory. -/
theorem storeThenLoadRestoresRegisters : Obligations.StoreThenLoadRestoresRegisters := by
  intro x s t u h hu
  obtain ⟨hfits, rfl⟩ := exec_storeRegs_next h
  have hi : u.i = s.i := (congrArg State.i hu :)
  have hmem : u.mem = (s.storeAtIndex (s.regsUpTo x)).mem := (congrArg State.mem hu :)
  have hin : u.i.toNat + x.val ≤ 4095 := by
    have := (blockFits_iff_last_le _ _).1 hfits
    rw [hi]
    omega
  obtain ⟨v, hv, hloaded, hhigher, _⟩ := (loadRegsLoadsTheBlock.2 x u).2 hin
  refine ⟨v, hv, fun r hr => ?_, hhigher⟩
  rw [hloaded r hr, hi, hmem, s.read_storeAtIndex_regsUpTo hr]

end Sys2Proof.Machine

namespace Sys2Proof

/-! ### The row of a word (R59) -/

/-- The row of a word depends on `OP`, in groups 0x0, 0x8 and 0xE on `N` too, and in group 0xF on `KK`
(R48 to R52). -/
theorem opcodeRow_decodeWord_congr {w p : Word} (hop : fieldOP w = fieldOP p)
    (hn : (fieldOP p).toNat ∈ [0x0, 0x8, 0xE] → fieldN w = fieldN p)
    (hkk : (fieldOP p).toNat = 0xF → fieldKK w = fieldKK p) :
    opcodeRow (decodeWord w) = opcodeRow (decodeWord p) := by
  have hlt : (fieldOP p).toNat < 16 := (fieldOP p).isLt
  unfold decodeWord
  rw [hop]
  split
  · next h =>
    simp only [decodeGroup0, hn (by simp [h])]
    split <;> rfl
  iterate 7 rfl
  · next h =>
    simp only [decodeGroup8, hn (by simp [h])]
    split <;> rfl
  iterate 5 rfl
  · next h =>
    simp only [decodeGroupE, hn (by simp [h])]
    split <;> rfl
  · have h : (fieldOP p).toNat = 0xF := by
      simp only [imp_false] at *
      omega
    simp only [decodeGroupF, hkk h]
    split <;> rfl

/-- The table read row by row: a row's pattern is itself a word of the row, and its mask looks at the fields
that decide the row of that word. -/
theorem opcodeRows_spec : ∀ row ∈ opcodeRows,
    row.pattern &&& row.mask = row.pattern ∧ opcodeRow (decodeWord row.pattern) = row ∧
    ((row.mask = 0xF000 ∧ (fieldOP row.pattern).toNat ∉ [0x0, 0x8, 0xE, 0xF]) ∨
     (row.mask = 0xF00F ∧ (fieldOP row.pattern).toNat ≠ 0xF) ∨
     (row.mask = 0xF0FF ∧ (fieldOP row.pattern).toNat = 0xF)) := by
  decide

/-- A word that matches a row decodes to the operation of the row: it has the row's fields under the mask,
as the row's pattern has. -/
theorem opcodeRow_decodeWord_of_match {w : Word} {row : OpcodeRow} (hrow : row ∈ opcodeRows)
    (h : w &&& row.mask = row.pattern) : opcodeRow (decodeWord w) = row := by
  obtain ⟨hp, hpattern, hmask⟩ := opcodeRows_spec row hrow
  refine Eq.trans ?_ hpattern
  rcases hmask with ⟨hm, hop⟩ | ⟨hm, hop⟩ | ⟨hm, hop⟩ <;> rw [hm] at h hp
  · refine opcodeRow_decodeWord_congr (op_of_match w _ h hp) (fun hmem => ?_) fun hF => ?_
    · exact absurd (List.mem_append_left [0xF] hmem) hop
    · exact absurd (by simp [hF]) hop
  · obtain ⟨hwop, hn⟩ := op_n_of_match w _ h hp
    exact opcodeRow_decodeWord_congr hwop (fun _ => hn) fun hF => absurd hF hop
  · obtain ⟨hwop, hkk⟩ := op_kk_of_match w _ h hp
    exact opcodeRow_decodeWord_congr hwop (fun hmem => absurd (hop ▸ hmem) (by decide)) fun _ => hkk

/-- Settles O39: a word matches the row of what it decodes to, and no other; the row of the no-op is none
of the 34. -/
theorem opcodeMapDecidesTheOperation : Obligations.OpcodeMapDecidesTheOperation := by
  refine ⟨fun w row hrow => ⟨opcodeRow_decodeWord_of_match hrow, ?_⟩,
    fun w row hrow row' hrow' h h' => ?_, fun w => ⟨decodeWord_of_no_row, fun hnop row hrow h => ?_⟩⟩
  · rintro rfl
    exact matchesRow_decodeWord w
  · exact (opcodeRow_decodeWord_of_match hrow h).symm.trans (opcodeRow_decodeWord_of_match hrow' h')
  · have hrow' := opcodeRow_decodeWord_of_match hrow h
    rw [hnop] at hrow'
    exact absurd (hrow' ▸ hrow) (by decide : opcodeRow (.nopUnmapped 0) ∉ opcodeRows)

/-! ### Ignored bits (R55) -/

section
variable {w v m : Word}

/-- Words that agree under a mask agree under every part of it. -/
theorem and_eq_and_of_submask {p : Word} (h : v &&& m = w &&& m) (hp : m &&& p = p) :
    v &&& p = w &&& p := by
  rw [← hp, ← BitVec.and_assoc, h, BitVec.and_assoc]

/-- Words that agree under a mask have the same field wherever the mask holds all bits of the field. -/
theorem extractLsb'_eq_of_and_eq (h : v &&& m = w &&& m) {start len : Nat}
    (hm : m.extractLsb' start len = BitVec.allOnes len) :
    v.extractLsb' start len = w.extractLsb' start len := by
  have := congrArg (BitVec.extractLsb' start len) h
  rwa [BitVec.extractLsb'_and, BitVec.extractLsb'_and, hm, BitVec.and_allOnes,
    BitVec.and_allOnes] at this

theorem fieldX_eq_of_and_eq (h : v &&& m = w &&& m) (hm : m.extractLsb' 8 4 = BitVec.allOnes 4) :
    fieldX v = fieldX w :=
  congrArg BitVec.toFin (extractLsb'_eq_of_and_eq h hm)

theorem fieldY_eq_of_and_eq (h : v &&& m = w &&& m) (hm : m.extractLsb' 4 4 = BitVec.allOnes 4) :
    fieldY v = fieldY w :=
  congrArg BitVec.toFin (extractLsb'_eq_of_and_eq h hm)

/-- A row whose instruction is a function of the word's `X`: the bits 7 to 4 do not count. -/
theorem decodeWord_eq_of_fieldX {p : Word} {f : Reg → Instr}
    (hdecode : ∀ {w : Word}, w &&& 0xF00F = p → decodeWord w = f (fieldX w))
    (hw : w &&& 0xF00F = p) (h : v &&& 0xFF0F = w &&& 0xFF0F) : decodeWord v = decodeWord w := by
  rw [hdecode hw, hdecode ((and_eq_and_of_submask h rfl).trans hw), fieldX_eq_of_and_eq h rfl]

/-- A row whose instruction is a function of the word's `X` and `Y`: the bits 3 to 0 do not count. -/
theorem decodeWord_eq_of_fieldX_fieldY {p : Word} {f : Reg → Reg → Instr}
    (hdecode : ∀ {w : Word}, w &&& 0xF000 = p → decodeWord w = f (fieldX w) (fieldY w))
    (hw : w &&& 0xF000 = p) (h : v &&& 0xFFF0 = w &&& 0xFFF0) : decodeWord v = decodeWord w := by
  rw [hdecode hw, hdecode ((and_eq_and_of_submask h rfl).trans hw), fieldX_eq_of_and_eq h rfl,
    fieldY_eq_of_and_eq h rfl]

end

/-- Settles O40: each row of the list decodes to an instruction of the fields outside the ignored bits. -/
theorem ignoredBitsAreIgnored : Obligations.IgnoredBitsAreIgnored := by
  intro w v
  refine ⟨?_, ?_, ?_, ?_⟩ <;> rintro (hw | hw) h
  · rw [decodeWord_eq_clearScreen hw, decodeWord_eq_clearScreen (h.trans hw)]
  · rw [decodeWord_eq_ret hw, decodeWord_eq_ret (h.trans hw)]
  · exact decodeWord_eq_of_fieldX_fieldY decodeWord_eq_skipEqReg hw h
  · exact decodeWord_eq_of_fieldX_fieldY decodeWord_eq_skipNeqReg hw h
  · exact decodeWord_eq_of_fieldX decodeWord_eq_shr hw h
  · exact decodeWord_eq_of_fieldX decodeWord_eq_shl hw h
  · exact decodeWord_eq_of_fieldX decodeWord_eq_skipKey hw h
  · exact decodeWord_eq_of_fieldX decodeWord_eq_skipNotKey hw h

/-! ### The words of the timer writes and of `add-index` (R59) -/

section
variable {w : Word}

theorem decodeWord_eq_setDelay (h : w &&& 0xF0FF = 0xF015) : decodeWord w = .setDelay (fieldX w) := by
  obtain ⟨hgroup, hkk⟩ := decodeWord_groupF h rfl rfl
  rw [hgroup, decodeGroupF, hkk]
  rfl

theorem decodeWord_eq_setSound (h : w &&& 0xF0FF = 0xF018) : decodeWord w = .setSound (fieldX w) := by
  obtain ⟨hgroup, hkk⟩ := decodeWord_groupF h rfl rfl
  rw [hgroup, decodeGroupF, hkk]
  rfl

theorem decodeWord_eq_addIndex (h : w &&& 0xF0FF = 0xF01E) : decodeWord w = .addIndex (fieldX w) := by
  obtain ⟨hgroup, hkk⟩ := decodeWord_groupF h rfl rfl
  rw [hgroup, decodeGroupF, hkk]
  rfl

end

end Sys2Proof

namespace Sys2Proof.Machine

/-! ### Reachable states -/

/-- Every reachable state meets the invariant: the reset state does, under any script, and every step keeps
it. -/
theorem Reachable.inv {s : State} (h : Reachable s) : Inv s := by
  obtain ⟨script, n, hrun⟩ := h
  refine run_induction Inv invariantKeptByStep n _ s ?_ hrun
  exact Inv.of_fields invariantAtReset wf_reset rfl rfl rfl rfl

/-- Settles O52: the bounds are those of the invariant, and of the type of `sp`. -/
theorem reachableBounds : Obligations.ReachableBounds := fun s h =>
  ⟨Nat.le_of_lt_succ s.sp.isLt, h.inv.pc_le, h.inv.code_le, h.inv.latch_pc, h.inv.mem_wf⟩

/-! ### A cycle whose instruction is known -/

theorem cycle_of_decoded {s t : State} {w : Word} {i : Instr} (hrun : s.faultCode = 0)
    (hw : s.fetchWord = some w) (hdecode : decodeWord w = i) (h : exec i (s.advance w) = .next t) :
    cycle s = .next t.tick :=
  cycle_of_exec_next hrun hw (hdecode ▸ h)

/-! ### Parking -/

/-- A jump back to where it was fetched undoes the advance of the same cycle (R62, R76). -/
theorem State.advance_setPc_self {s : State} {v : Word} (hpc : s.pc = v) (w : Word) :
    (s.advance w).setPc v = { s with ir := w } := by
  subst hpc
  rfl

/-- Settles O57: the cycle is the fetch, the jump back and the tick; `pc` and memory, which the next fetch
reads, are as before. -/
theorem parkedStaysParked : Obligations.ParkedStaysParked := by
  rintro a s ⟨hrun, hpc, w, hw, hdecode⟩
  have hexec : exec (.jump a) (s.advance w) = .next { s with ir := w } :=
    congrArg Host.Outcome.next (State.advance_setPc_self hpc w)
  exact ⟨_, cycle_of_decoded hrun hw hdecode hexec, ⟨hrun, hpc, w, hw, hdecode⟩, rfl, tickTimer_toNat s.dt,
    tickTimer_toNat s.st⟩

/-! ### `add-index` -/

/-- Settles O26: the sum of words is the sum modulo 65536. -/
theorem addIndexAddsModulo65536 : Obligations.AddIndexAddsModulo65536 := by
  refine ⟨fun _ => decodeWord_eq_addIndex, fun x s => exec_writes_index rfl ?_⟩
  rw [BitVec.toNat_add, byteOperand_toNat]

/-! ### The timers -/

/-- Settles O45: the tick follows the instruction, whose state it changes in the timers alone. -/
theorem everyCompletedCycleTicks : Obligations.EveryCompletedCycleTicks := fun _ t _ hrun hw h =>
  ⟨t.tick, cycle_of_exec_next hrun hw h, tickTimer_toNat t.dt, tickTimer_toNat t.st, rfl⟩

/-- Settles O36: the meaning writes `dt`, and the cycle then ticks what was written. -/
theorem setDelayWritesThenTicks : Obligations.SetDelayWritesThenTicks :=
  ⟨fun _ => decodeWord_eq_setDelay, fun _ _ => ⟨_, rfl, rfl, rfl, fun _ => rfl⟩,
    fun x _ s hrun hw hdecode =>
      ⟨_, cycle_of_decoded hrun hw hdecode rfl, tickTimer_toNat (s.reg x)⟩⟩

/-- Settles O37: the meaning writes `st`, and the cycle then ticks what was written. -/
theorem setSoundWritesThenTicks : Obligations.SetSoundWritesThenTicks :=
  ⟨fun _ => decodeWord_eq_setSound, fun _ _ => ⟨_, rfl, rfl, rfl, fun _ => rfl⟩,
    fun x _ s hrun hw hdecode =>
      ⟨_, cycle_of_decoded hrun hw hdecode rfl, tickTimer_toNat (s.reg x)⟩⟩

end Sys2Proof.Machine
